-- ==== Sys2Proof/Word.lean ====
section
/-! DEFINITION. The words of the block: bytes, the 16-byte buffers, and the per-lane arrays, with the plainest
operations on them (spec/00_scope.md R10, R11). Every value of this block is unsigned and none is sign-extended (R10). -/

namespace Sys2Proof

/-- One byte, `u8` (R10). -/
abbrev Byte := BitVec 8

/-- A 16-byte register or buffer, indexed 0..15 (R23, R24, R27, R44). -/
abbrev Buf := Vector Byte 16

/-- A lane number 0..3 (R11). -/
abbrev Lane := Fin 4

/-- The lanes in increasing order (R178, R221). -/
def lanes : List Lane := [0, 1, 2, 3]

/-- `B[i] <- l[i]` for every `i` below the length of `l` and below 16; the other bytes keep their values (R127, R133, R151). -/
def Buf.put (b : Buf) (l : List Byte) : Buf :=
  Vector.ofFn fun i => (l[i.val]?).getD b[i.val]

/-- `B[0..n-1]` (R127, R133, R150). -/
def Buf.first (b : Buf) (n : Nat) : List Byte := b.toList.take n

/-- A Boolean as one bit (R10: `bool` is 0 or 1). -/
def bit (b : Bool) : BitVec 1 := if b then 1#1 else 0#1

end Sys2Proof
end

