-- ==== Sys2Proof/Machine/Types.lean ====
section
/-! DEFINITION. The values the registers and records of the block hold (spec/10_state.md R21 to R45; spec/60_exceptions.md R250,
R255, R270), as plain data. -/

namespace Sys2Proof.Machine

/-- `AUX_FSM` (R21): no transaction in flight, or one issued and not yet completed or timed out. -/
inductive AuxFsm where
  | idle
  | wait
  deriving DecidableEq, Repr, Inhabited

/-- The direction of an AUX request (R22): `Read`, `Write`, `WSU` (WriteStatusUpdate). -/
inductive Rw where
  | read
  | write
  | wsu
  deriving DecidableEq, Repr, Inhabited

/-- An AUX request as it is presented for a transfer (R109, R120): `rw` is the port's u2 code, 3 naming no direction (R94, R125). -/
structure Request where
  isI2c : Bool
  isMot : Bool
  rw : BitVec 2
  addr : BitVec 20
  size : Byte
  deriving DecidableEq, Repr, Inhabited

/-- `REQ`, the request register (R22). -/
structure ReqReg where
  word : BitVec 32
  addrOnly : Bool
  isI2c : Bool
  isMot : Bool
  rw : Rw
  size : Byte
  deriving DecidableEq, Repr, Inhabited

/-- The fields of `REPLY` that the AUX-channel agent writes (R25); `REPLY.valid` is kept beside them. -/
structure ReplyStatus where
  replyType : BitVec 4
  bytesRead : Byte
  auxM : Byte
  replyReceived : Bool
  errStatus : BitVec 4
  errCode : Byte
  deriving DecidableEq, Repr, Inhabited

/-- The AUX engine's registers (R21 to R26). -/
structure AuxRegs where
  fsm : AuxFsm
  req : ReqReg
  wdata : Buf
  rdata : Buf
  reply : ReplyStatus
  replyValid : Bool
  completion : Bool
  deriving DecidableEq, Repr

/-- An answer of the AUX-channel agent to an issued request (R128): a reply record with its data, or the wait's expiry. -/
inductive AuxAnswer where
  | reply (r : ReplyStatus) (rdata : Buf)
  | timedOut
  deriving DecidableEq, Repr, Inhabited

/-- A lane count, 1, 2 or 4 (R29, R34, R100). -/
inductive LaneCount where
  | one
  | two
  | four
  deriving DecidableEq, Repr, Inhabited

/-- A channel-equalization pattern, `TPS2`, `TPS3` or `TPS4` (R29, R35). -/
inductive Tps where
  | tps2
  | tps3
  | tps4
  deriving DecidableEq, Repr, Inhabited

/-- A transmitter pattern (R37, R101). -/
inductive Pattern where
  | none
  | tps1
  | tps2
  | tps3
  | tps4
  deriving DecidableEq, Repr, Inhabited

/-- `LinkPhyParam` without the signal table (R29). Rates are indices 0..3 (R99); levels are 0..3. -/
structure LinkPhyParam where
  initRate : BitVec 2
  initLanes : LaneCount
  initSwing : Vector (BitVec 2) 4
  initPreemp : Vector (BitVec 2) 4
  fecEn : Bool
  sscEn : Bool
  enhanceFrameEn : Bool
  eqTps : Tps
  deriving DecidableEq, Repr, Inhabited

/-- One entry of the signal table: the codes (pre, main, post), u8 each (R30). -/
structure SigCodes where
  pre : Byte
  main : Byte
  post : Byte
  deriving DecidableEq, Repr, Inhabited

/-- The PHY parameter store (R29 to R31). `sigTable` holds entry `(rate, swing, preemp)` at `16*rate + 4*swing + preemp`. -/
structure ParamStore where
  defaultParam : LinkPhyParam
  sigTable : Vector SigCodes 64
  configLocked : Bool
  deriving DecidableEq, Repr

/-- `T_PHASE` (R33), in the order of its codes 0 to 7. -/
inductive Phase where
  | idle
  | initOk
  | retryPending
  | crOk
  | eqOk
  | failedPending
  | done
  | failed
  deriving DecidableEq, Repr, Inhabited

/-- The micro-step position inside a running clock-recovery or equalization attempt (R33, R190). -/
inductive MicroStep where
  | patternSet
  | delay
  | statusRead
  | convergenceCheck
  | adjustOrFallback
  deriving DecidableEq, Repr

/-- `LinkPhyStatus` (R34). -/
structure LinkPhyStatus where
  curLanes : LaneCount
  curRate : BitVec 2
  swing : Vector (BitVec 2) 4
  preemp : Vector (BitVec 2) 4
  mbps : BitVec 32
  khz : BitVec 32
  fecActive : Bool
  deriving DecidableEq, Repr, Inhabited

/-- The link-training registers (R32 to R36). -/
structure TrainRegs where
  sessionParam : LinkPhyParam
  phase : Phase
  micro : Option MicroStep
  status : LinkPhyStatus
  retry : Byte
  notUpdated : Byte
  cap : Buf
  lstat : Vector Byte 6
  eqTps : Tps
  resultValid : Bool
  result : LinkPhyStatus
  deriving DecidableEq, Repr

/-- A PHY shadow register: the last value commanded on the port, or `UNKNOWN` (R37, R280). -/
inductive Shadow (α : Type) where
  | unknown
  | known (a : α)
  deriving DecidableEq, Repr

/-- The power mode of a lane as the block knows it (R37). -/
inductive Power where
  | on
  | powerDown
  | unknown
  deriving DecidableEq, Repr

/-- The transmitter's framing mode (R37). -/
inductive Framing where
  | normal
  | ef
  | efFec
  deriving DecidableEq, Repr

/-- What `set_vswing_preemp` programs for a lane (R37). -/
structure Drive where
  swing : BitVec 2
  preemp : BitVec 2
  codes : SigCodes
  deriving DecidableEq, Repr

/-- The PHY shadow registers (R37). -/
structure PhyRegs where
  lanes : Shadow LaneCount
  rate : Shadow (BitVec 2)
  pattern : Shadow Pattern
  drive : Vector (Shadow Drive) 4
  xmitMask : Shadow (BitVec 4)
  fec : Shadow Bool
  power : Vector Power 4
  framing : Shadow Framing
  video : Shadow Bool
  deriving DecidableEq, Repr

/-- A Hardware Operations command with its arguments (R37). -/
inductive HwCmd where
  | setLaneCountLinkRate (lanes : LaneCount) (rate : BitVec 2)
  | setPattern (p : Pattern)
  | setVswingPreemp (lane : Lane) (d : Drive)
  | enableXmit (mask : BitVec 4)
  | enableFec (on : Bool)
  | setPerLanePowerMode (lane : Lane)
  | setFramingMode (f : Framing)
  | videoEnable (on : Bool)
  deriving DecidableEq, Repr

/-- `SIRQ`, the sink-IRQ record (R38). -/
structure SinkIrqRec where
  valid : Bool
  raw : Byte
  testTraining : Bool
  testLanes : Byte
  testRate : Byte
  testPhy : Bool
  testPattern : Byte
  customValid : Bool
  custom : Vector Byte 10
  adjSwing : Vector (BitVec 2) 4
  adjPreemp : Vector (BitVec 2) 4
  cpIrq : Bool
  deriving DecidableEq, Repr

/-- Status codes of a command (R250). -/
inductive Status where
  | ok
  | invalidArgument
  | timeout
  | protocolError
  | busy
  | retry
  | fatal
  deriving DecidableEq, Repr, Inhabited

/-- The settle delays (R40, R203, R211, R222). -/
inductive DelayLabel where
  | crDelay
  | eqDelay
  | fecWait
  deriving DecidableEq, Repr

/-- A log event with its context (R135, R178, R223, R247, R270). -/
inductive LogEntry where
  /-- A transfer whose final reply type is not ACK, with the request and the reply register (R135). -/
  | nonAck (req : ReqReg) (reply : ReplyStatus) (valid : Bool)
  /-- Levels whose sum is above 3 (R178). -/
  | driveSum (lane : Lane) (swing preemp : BitVec 2)
  /-- FEC given up after the attempts (R223). -/
  | fecDisabled (attempts : Nat)
  /-- The asynchronous service ended with an error (R247). -/
  | sinkIrqError (raw : Byte)
  deriving DecidableEq, Repr

/-- An event of `HIST` (R40). -/
inductive Event where
  | cmdStart (opc : Byte)
  | cmdEnd (st : Status)
  | auxIssue (word : BitVec 32) (addrOnly : Bool) (data : List Byte)
  | auxReply (r : ReplyStatus) (rdata : Buf)
  | auxTimeout
  | hwOp (c : HwCmd) (busy : Bool)
  | delay (l : DelayLabel)
  | log (e : LogEntry)
  | sinkIrq
  deriving DecidableEq, Repr

/-- How often in a row a pending service is taken at one boundary before the sequencer's next micro-step: a number of times, or
without end, the source requesting it again each time (R263). -/
inductive Serve where
  | times (n : Nat)
  | endless
  deriving DecidableEq, Repr, Inhabited

/-- What the sink-IRQ source and the scheduler choose at one boundary between micro-steps (R262, R264): whether the source
requests service, and how often a pending one is taken. -/
structure Boundary where
  request : Bool
  serve : Serve
  deriving DecidableEq, Repr, Inhabited

end Sys2Proof.Machine
end

