-- ==== Sys2Proof/Config.lean ====
section
/-! DEFINITION. What an implementation fixes and what the spec leaves open (spec/00_scope.md R8, R9; spec/93_implementation_defined.md):
the fixed parameters as numbers, the OPEN parameters and the draws of the oracle agents as constants without a body, so that
nothing can be proved of their values. -/

namespace Sys2Proof.Config

open Sys2Proof.Machine

/-- Largest AUX payload in bytes (R8). -/
def auxMaxSize : Byte := 16#8
/-- Largest swing level (R8). -/
def maxSwing : BitVec 2 := 3#2
/-- Largest pre-emphasis level (R8). -/
def maxPreemp : BitVec 2 := 3#2
/-- Clock-recovery iteration bound (R8). -/
def crRetry : Nat := 10
/-- Bound on consecutive unchanged adjust requests (R8). -/
def notUpdatedMax : Nat := 5
/-- Channel-equalization iteration bound (R8). -/
def eqRetry : Nat := 5
/-- FEC enable attempts (R8). -/
def fecRetry : Nat := 3
/-- Swing + pre-emphasis above this is logged, not rejected (R8). -/
def driveSumMax : Nat := 3
/-- The most clock-recovery phases of one session, reached from 4 lanes at HBR3 (R217). -/
def maxRungs : Nat := 12

/-- The completion wait bound, 32 ms, in microseconds (R8). A label: no rule reads it (R6). -/
def auxTimeoutUs : Nat := 32000
/-- The wait of one FEC attempt, about 900 microseconds (R8). A label: no rule reads it (R6). -/
def fecWaitUs : Nat := 900

/-- `DEFAULT_PARAM_INIT`, OPEN (R9, D18): the default parameters at reset. -/
opaque defaultParamInit : LinkPhyParam
/-- `SIGNAL_TABLE_INIT`, OPEN (R9, D17): the 64 table entries at reset. -/
opaque signalTableInit : Vector SigCodes 64
/-- `DEFER_RETRY_MAX`, OPEN (R149, D13; the spec's default is 0): how often a wrapper issues a deferred request again. -/
opaque deferRetryMax : Nat
/-- `SELECT_EQ_TPS(eq_tps, cap)`, OPEN (R198, D54; the spec's default returns `eq_tps`). -/
opaque selectEqTps : Tps → Buf → Tps
/-- `CR_DELAY(cap)`, OPEN (R203, D55), in microseconds. A label: no rule reads it (R6). -/
opaque crDelayUs : Buf → Nat
/-- `EQ_DELAY(cap)`, OPEN (R211, D55), in microseconds. A label: no rule reads it (R6). -/
opaque eqDelayUs : Buf → Nat

/-- The duration a delay event stands for, given the capability block (R6, R291). No rule reads it. -/
def delayUs (cap : Buf) : DelayLabel → Nat
  | .crDelay => crDelayUs cap
  | .eqDelay => eqDelayUs cap
  | .fecWait => fecWaitUs

/-- The AUX-channel agent's `n`-th free answer (R128: both draws, every reply field and data byte free). -/
opaque auxAnswer : Nat → AuxAnswer
/-- The bytes that the reference sink's `n`-th reply leaves in `RDATA` where it carries none (R24: unspecified). -/
opaque uncarriedData : Nat → Buf
/-- How many data bytes of the request reach the reference sink's bytes where the answer is not the reference sink's own, the
`n`-th time (R65: a timed-out write may or may not have been applied). -/
opaque actedBytes : Nat → Nat
/-- Whether the PHY's `n`-th free answer to a command that waits for PHY-ready is `Busy` (R37). -/
opaque phyBusy : Nat → Bool
/-- The sink-IRQ source's and the scheduler's `n`-th free choice at a boundary (R262, R264). -/
opaque boundary : Nat → Boundary

end Sys2Proof.Config
end

