-- ==== Sys2Proof/Syntax.lean ====
section
/-! DEFINITION. The instructions: one constructor per row of spec/opcode_table.json (8 AUX request kinds, 11 host commands;
spec/30_encoding.md R81, R93), and the words they are written as (R80). -/

namespace Sys2Proof

/-- The operations of the block. The eight AUX kinds carry the address (u20) and the size (u8: the whole range, so that the
sizes validation rejects can be written, R94, R121 to R124); the host commands carry the operand fields of R94 to R97. -/
inductive Instr where
  /-- `AUX.NR addr, size`: native read (R138). -/
  | auxNr (addr : BitVec 20) (size : BitVec 8)
  /-- `AUX.NW addr, size`: native write (R139). -/
  | auxNw (addr : BitVec 20) (size : BitVec 8)
  /-- `AUX.I2CR addr, size`: i2c read without MOT (R140). -/
  | auxI2cr (addr : BitVec 20) (size : BitVec 8)
  /-- `AUX.I2CR.MOT addr, size`: i2c read with MOT (R141). -/
  | auxI2crMot (addr : BitVec 20) (size : BitVec 8)
  /-- `AUX.I2CW addr, size`: i2c write without MOT (R142). -/
  | auxI2cw (addr : BitVec 20) (size : BitVec 8)
  /-- `AUX.I2CW.MOT addr, size`: i2c write with MOT (R143). -/
  | auxI2cwMot (addr : BitVec 20) (size : BitVec 8)
  /-- `AUX.I2CWSU addr, size`: i2c write status update without MOT (R144). -/
  | auxI2cwsu (addr : BitVec 20) (size : BitVec 8)
  /-- `AUX.I2CWSU.MOT addr, size`: i2c write status update with MOT (R145). -/
  | auxI2cwsuMot (addr : BitVec 20) (size : BitVec 8)
  /-- `AUX_TRANSFER` (the raw form `AUX.RAW i2c, mot, rw, addr, size` of R107), any combination of fields (R94, R146). -/
  | auxTransfer (isI2c isMot : Bool) (rw : BitVec 2) (size : BitVec 8) (addr : BitVec 20)
  /-- `TRAIN.START` (R191). -/
  | trainStart
  /-- `TRAIN.INIT` (R192). -/
  | trainInit
  /-- `TRAIN.CR` (R201). -/
  | trainCr
  /-- `TRAIN.EQ` (R210). -/
  | trainEq
  /-- `TRAIN.DONE s` (R95, R219). -/
  | trainDone (success : Bool)
  /-- `PARAM.GET` (R171). -/
  | paramGet
  /-- `PARAM.SESSION` (R172). -/
  | paramSession
  /-- `PARAM.SET field, value` (R96, R173). -/
  | paramSet (field value : BitVec 8)
  /-- `SIGTAB.SET rate, swing, preemp, pre, main, post` (R97, R175). -/
  | sigtabSet (rate swing preemp pre main post : BitVec 8)
  /-- `SINK.IRQ` (R240). -/
  | sinkIrq
  deriving DecidableEq, Repr

/-- A word that spells an operation, in one of the two command formats of R80: the 64-bit host command word `HCMD` (R92), or the
AUX request word with its address-only flag (R83, R84: "32 bits + 1 flag"). -/
inductive CommandWord where
  /-- `HOST_CMD`, 64 bits (R92). -/
  | host (w : BitVec 64)
  /-- `AUX_REQ`, 32 bits and `addr_only` (R83, R84). -/
  | req (w : BitVec 32) (addrOnly : Bool)
  deriving DecidableEq, Repr

end Sys2Proof
end

