-- ==== Sys2Proof/Machine/State.lean ====
section
/-! DEFINITION. The state of the machine (spec/10_state.md R20 to R45), grouped as R20 groups it, with the sequencer's position
(R33) as structured code, the environment's answers (spec/00_scope.md R7) and the host's coming actions, all plain data; and the
state after reset (spec/70_reset_and_hazards.md R280). What the named accesses, micro-steps and tests of the code do is in
Machine/Access.lean, Phy.lean, Updates.lean and Engine.lean. -/

namespace Sys2Proof.Machine

/-- The model faults of R255. They are both the marks of `FAULTS` (R39) and the reasons of the machine's stop. Each is raised as
a NEXT state with its mark set, from which the machine takes no further step: `step` then answers this fault. Safe: a run that
faults proves nothing about the chip (R255). -/
inductive Fault where
  /-- A training command, or `PARAM.SESSION`, in a phase that does not admit it (R172, R190). Safe. -/
  | sequenceViolation
  /-- `PARAM.SET` or `SIGTAB.SET` while the configuration is locked (R176). Safe. -/
  | configWriteAfterUse
  /-- An AUX issue while a transaction is in flight (R127). Safe. -/
  | overlappingTransfer
  /-- The host writes `HCMD` or `HBUF` while a command runs (R42, R284). Safe. -/
  | commandOverlap
  /-- An AUX write reads a byte of `HBUF` the host has not written (R127). Safe. -/
  | unwrittenRead
  deriving DecidableEq, Repr

/-- Why the machine refuses. No meaning of this model refuses; a word that spells no command is not refused in this sense but
marked in `REFUSED` (R98), with the machine going on. -/
inductive Refusal where
  /-- An instruction without a meaning, rejected by its mnemonic. Raised by no arm of `exec`. Safe. -/
  | notModelled (mnemonic : String)
  deriving DecidableEq, Repr

/-! ### The sequencer's microprogram and position -/

/-- The checked DPCD accesses the block makes, one per place the spec names (R54): the rule in each docstring makes it. -/
inductive Access where
  /-- Read 16 bytes at 0x00000 into `CAP` (R193). -/
  | capability
  /-- Write `FEC_CONFIGURATION` (R194). -/
  | fecReady
  /-- Write `DOWNSPREAD_CTRL` (R195). -/
  | downspread
  /-- Write `MAIN_LINK_CHANNEL_CODING_SET` (R196). -/
  | channelCoding
  /-- Write `LINK_BW_SET` and `LANE_COUNT_SET` (R202). -/
  | linkConfig
  /-- The 5-byte training-set burst at 0x00102, with TPS1 or (`eq`) with `EQ_TPS_EFF` (R202, R211). -/
  | trainingSet (eq : Bool)
  /-- Write the idle pattern byte (R220). -/
  | idlePattern
  /-- Read the six link-status bytes at 0x00202 into `LSTAT` (R204). -/
  | linkStatus
  /-- Read `FEC_STATUS` (R222). -/
  | fecStatus
  /-- Read `DEVICE_SERVICE_IRQ_VECTOR` (R241). -/
  | irqVector
  /-- Read `TEST_REQUEST` (R242). -/
  | testRequest
  /-- Read `TEST_LINK_RATE` (R243). -/
  | testLinkRate
  /-- Read `TEST_LANE_COUNT` (R243). -/
  | testLaneCount
  /-- Read `PHY_TEST_PATTERN` (R244). -/
  | phyTestPattern
  /-- Read the ten custom-pattern bytes (R244). -/
  | customPattern
  /-- Read the two adjust-request bytes (R244). -/
  | adjustRequest
  /-- Write the vector byte back (R246). -/
  | irqClear
  deriving DecidableEq, Repr

/-- The PHY commands of the sequencer's rules; their arguments are read from the registers when they are performed. -/
inductive PhyAct where
  /-- `set_lane_count_link_rate` with the current lanes and rate (R201). -/
  | linkRate
  /-- `set_pattern` with a fixed pattern (R202, R220). -/
  | pattern (p : Pattern)
  /-- `set_pattern` with `EQ_TPS_EFF` (R211). -/
  | patternEq
  /-- `set_vswing_preemp` for one lane from the signal table (R178). -/
  | driveLane (lane : Lane)
  /-- `enable_xmit` for the current lanes (R199, R201). -/
  | xmitActive
  /-- `enable_xmit` for no lane (R221). -/
  | xmitOff
  /-- `enable_fec` (R222, R223). -/
  | fec (on : Bool)
  /-- `set_per_lane_power_mode` with `POWER_DOWN` (R221). -/
  | powerDown (lane : Lane)
  /-- `set_framing_mode` by the session's parameters (R194). -/
  | framing
  /-- `video_enable` off (R220). -/
  | videoOff
  deriving DecidableEq, Repr

/-- The internal updates: micro-steps that do no I/O. -/
inductive Update where
  /-- `RES_PARAM <- DEFAULT_PARAM` (R171). -/
  | paramGet
  /-- `SESSION_PARAM <- DEFAULT_PARAM; RES_PARAM <- SESSION_PARAM` (R172). -/
  | paramSession
  /-- One field of `DEFAULT_PARAM` (R173). -/
  | paramSet (field value : Byte)
  /-- One entry of `SIG_TABLE` (R175). -/
  | sigtabSet (rate swing preemp pre main post : Byte)
  /-- The first three actions of `Init()` (R192). -/
  | initBegin
  /-- Seed `STATUS` (R197). -/
  | seedStatus
  /-- `EQ_TPS_EFF` (R198). -/
  | selectEq
  /-- `T_PHASE <- p` (R199, R200, R205, R213, R218). -/
  | setPhase (p : Phase)
  /-- `RETRY <- 0; NOT_UPDATED <- 0` (R201, R210). -/
  | clearCounters
  /-- `Adjust()` (R206). -/
  | adjust
  /-- `RETRY <- RETRY + 1` (R207, R214). -/
  | countRetry
  /-- `Fallback()` with `ResetLevels()` (R215, R216). -/
  | fallback
  /-- `ok <- 0` before the FEC attempts (R222). -/
  | fecBegin
  /-- `STATUS.fec_active <- on` (R222). -/
  | fecActive (on : Bool)
  /-- The state changes of `FecGiveUp()` after its `HwOp` (R223). -/
  | fecGiveUp
  /-- `STATUS.mbps`, `STATUS.khz` (R224). -/
  | negotiate
  /-- `SESSION_RESULT <- (valid, STATUS); T_PHASE <- DONE` (R225). -/
  | recordResult
  /-- `SESSION_RESULT.valid <- 0; T_PHASE <- FAILED` (R221). -/
  | failSession
  /-- The start of the parser: event, record cleared, status `OK` (R240, R248). -/
  | irqBegin
  /-- `SIRQ.test_training <- 1` (R243). -/
  | irqTestTraining
  /-- `SIRQ.test_phy <- 1` (R244). -/
  | irqTestPhy
  /-- `SIRQ.cp_irq <- 1` (R245). -/
  | irqCp
  /-- `st <- ProtocolError` (R242, R246). -/
  | irqError
  deriving DecidableEq, Repr

/-- One micro-step of the sequencer (R6): an AUX issue, an AUX completion or timeout, a Hardware Operations command, a settle
delay, or an internal update. -/
inductive Act where
  /-- Validate, format, write data and issue the host's request (R120 stages 1 to 3). -/
  | hostIssue (q : Request)
  /-- Take the answer of the host's request and write its result registers (R120 stages 4 to 10, R134). -/
  | hostComplete
  /-- Issue a wrapper's request (R150, R151). -/
  | issue (a : Access)
  /-- Take the answer of a wrapper's request (R149 to R151). -/
  | complete (a : Access)
  /-- A PHY command (R37). -/
  | phy (c : PhyAct)
  /-- A settle delay (R203, R211, R222). -/
  | delay (l : DelayLabel)
  /-- An internal update. -/
  | upd (u : Update)
  deriving DecidableEq, Repr

/-- The tests the rules make between micro-steps. -/
inductive Test where
  /-- `T_PHASE` is one of these (R190). -/
  | phaseIn (ps : List Phase)
  /-- `CONFIG_LOCKED = 0` (R176). -/
  | unlocked
  /-- `Legal(FIELD, VALUE)` (R174). -/
  | legal (field value : Byte)
  /-- The three table indices are at most 3 (R175). -/
  | indices (rate swing preemp : Byte)
  /-- The last wrapper access succeeded (R149). -/
  | accessOk
  /-- The last PHY command answered `Ok` (R37). -/
  | phyOk
  /-- Lane `i` is active (R100). -/
  | laneActive (lane : Lane)
  /-- `CR_OK(cur_lanes)` (R103). -/
  | crDone
  /-- `EQ_OK(cur_lanes)` (R103). -/
  | eqDone
  /-- `RETRY == bound || NOT_UPDATED == NOT_UPDATED_MAX` (R207, R214). -/
  | bound (n : Nat)
  /-- `SESSION_PARAM.fec_en = 1` (R194, R222). -/
  | fecEn
  /-- The FEC attempt saw the sink's status bit (R222). -/
  | fecSeen
  /-- Bit `i` of the vector byte `v` (R240). -/
  | vectorBit (i : Nat)
  /-- Bit `i` of the `TEST_REQUEST` byte (R242). -/
  | testBit (i : Nat)
  /-- The pattern id is 0x04, the 80-bit custom pattern (R244). -/
  | customPattern
  /-- The routine just called returned this status (R191). -/
  | returned (st : Status)
  deriving DecidableEq, Repr

/-- The structured code of a command. `act` is a micro-step with a boundary before it, `first` one without (it belongs to
what comes before it); everything else only moves the sequencer's position. -/
inductive Code where
  /-- Nothing. -/
  | skip
  /-- A micro-step with no boundary before it: the command's acceptance runs into it, or the failure just taken does (R218, R265). -/
  | first (a : Act)
  /-- A boundary (R262), then a micro-step. -/
  | act (a : Act)
  /-- A checked DPCD access with its retries (R149 to R151). -/
  | access (a : Access)
  /-- Name the micro-step position, or leave it (R33). -/
  | mark (m : Option MicroStep)
  /-- `if t then p else q`. -/
  | cond (t : Test) (p q : Code)
  /-- `p`, then `q`. -/
  | seq (p q : Code)
  /-- `p` at most `n` times. -/
  | loop (n : Nat) (p : Code)
  /-- Leave the innermost loop. -/
  | brk
  /-- `return st` (R12). -/
  | ret (st : Status)
  /-- Return the status a micro-step computed. -/
  | retSt
  /-- Run `p` as a routine; its `return` ends it and nothing more. -/
  | call (p : Code)
  /-- `fault f` (R12, R255). -/
  | fault (f : Fault)
  deriving DecidableEq, Repr

/-- The sequencer's locals, the variables of the rules' pseudocode that live across micro-steps: the outcome of the last wrapper
access, whether it was deferred, whether the last PHY command was `Busy`, the FEC attempt's bit, the parser's `v` and `t`, the
status being computed and the status last returned. -/
structure Locals where
  ok : Bool
  defer : Bool
  busy : Bool
  fecSeen : Bool
  v : Byte
  t : Byte
  st : Status
  ret : Status
  deriving DecidableEq, Repr

/-- One entry of the sequencer's position (R33): what is still to be done. -/
inductive Frame where
  /-- Code still to run. -/
  | code (c : Code)
  /-- A micro-step whose boundary has been taken. -/
  | now (a : Act)
  /-- How often a pending service is still taken here (R262). -/
  | serve (n : Nat)
  /-- The source requests service here again and again, without end (R263). -/
  | serveOn
  /-- The end of the asynchronous service, with the interrupted command's locals (R262). -/
  | endService (saved : Locals)
  /-- The rest of a loop. -/
  | loopEnd (n : Nat) (p : Code)
  /-- The end of a called routine. -/
  | callEnd
  /-- The wrapper's retries that are left (R149). -/
  | retry (a : Access) (n : Nat)
  /-- The end of the command (R251). -/
  | endCmd
  deriving DecidableEq, Repr

/-! ### The registers -/

/-- `FAULTS` (R39): the set of model faults raised, one mark each. -/
structure FaultSet where
  sequenceViolation : Bool
  configWriteAfterUse : Bool
  overlappingTransfer : Bool
  commandOverlap : Bool
  unwrittenRead : Bool
  deriving DecidableEq, Repr

/-- The host interface registers (R27, R28). `hbufWritten` says which bytes of `HBUF` the host has written since reset
(R127, R255). -/
structure HostRegs where
  hcmd : BitVec 64
  hbuf : Buf
  hbufWritten : Vector Bool 16
  resStatus : Byte
  resReply : BitVec 4
  resPayload : Byte
  resParam : LinkPhyParam
  deriving DecidableEq, Repr

/-- The sink service bits (R45). -/
structure SvcRegs where
  pending : Bool
  active : Bool
  deriving DecidableEq, Repr

/-- The reference sink of R72: its bytes (addresses rising, no byte that is 0), the scripted answers to reads of the link-status
block at 0x00202 and of `FEC_STATUS`. -/
structure RefSink where
  mem : List Host.Cell
  status : List (Vector Byte 6)
  fec : List Byte
  deriving DecidableEq, Repr

/-- The environment (R7): what the oracle agents will answer, as far as it has been fixed. Each list is used up in order; where
it is empty, the answer is the reference sink's, or that of an agent declared quiet, or else a free value. `acted` says how many
data bytes of a request reach the reference sink's bytes where its answer is overruled by `aux` (R65). -/
structure Env where
  aux : List AuxAnswer
  sink : Option RefSink
  acted : List Nat
  actedCount : Nat
  auxCount : Nat
  phy : List Bool
  phyReady : Bool
  phyCount : Nat
  irq : List Boundary
  irqQuiet : Bool
  irqCount : Nat
  deriving DecidableEq, Repr

/-- The block with its environment: everything but the sequencer's position and the host's coming actions. -/
structure Block where
  aux : AuxRegs
  port : HostRegs
  ibuf : Buf
  store : ParamStore
  train : TrainRegs
  phy : PhyRegs
  sirq : SinkIrqRec
  svc : SvcRegs
  faults : FaultSet
  refused : Bool
  hist : List Event
  loc : Locals
  env : Env
  deriving DecidableEq, Repr

/-- An action of the host agent (R7). -/
inductive HostAction where
  /-- Write `HCMD` (or present an AUX request word) and wait for the command's end: the whole command is one step. -/
  | run (w : CommandWord)
  /-- Write `HCMD` and go on: the command runs micro-step by micro-step (R6). -/
  | cmd (w : CommandWord)
  /-- Write `HBUF[i]` (R27). -/
  | buf (i : Fin 16) (v : Byte)
  /-- Wait until no command runs (R42). -/
  | wait
  /-- Let one step pass. -/
  | idle
  deriving DecidableEq, Repr

/-- The state of the machine. -/
structure State where
  /-- The registers, the event history and the environment. -/
  blk : Block
  /-- The sequencer's position, innermost first (R33): empty when nothing runs; without `endCmd` while a service between commands
  runs (R262). -/
  seq : List Frame
  /-- The host's coming actions, in order. -/
  host : List HostAction
  deriving DecidableEq, Repr

/-- A buffer the spec leaves unwritten at reset (R280), at the value this model names for it. -/
def zeroBuf : Buf := Vector.replicate 16 0

/-- A parameter record the spec leaves unwritten at reset (R280), at the value this model names for it. -/
def zeroParam : LinkPhyParam where
  initRate := 0
  initLanes := .one
  initSwing := Vector.replicate 4 0
  initPreemp := Vector.replicate 4 0
  fecEn := false
  sscEn := false
  enhanceFrameEn := false
  eqTps := .tps2

/-- A status record the spec leaves unwritten at reset (R280), at the value this model names for it. -/
def zeroStatus : LinkPhyStatus where
  curLanes := .one
  curRate := 0
  swing := Vector.replicate 4 0
  preemp := Vector.replicate 4 0
  mbps := 0
  khz := 0
  fecActive := false

/-- `SIRQ` with every field 0 (R248, R280). -/
def zeroSirq : SinkIrqRec where
  valid := false
  raw := 0
  testTraining := false
  testLanes := 0
  testRate := 0
  testPhy := false
  testPattern := 0
  customValid := false
  custom := Vector.replicate 10 0
  adjSwing := Vector.replicate 4 0
  adjPreemp := Vector.replicate 4 0
  cpIrq := false

/-- The locals before any command. -/
def zeroLocals : Locals where
  ok := false
  defer := false
  busy := false
  fecSeen := false
  v := 0
  t := 0
  st := .ok
  ret := .ok

/-- `FAULTS` empty (R280). -/
def noFaults : FaultSet where
  sequenceViolation := false
  configWriteAfterUse := false
  overlappingTransfer := false
  commandOverlap := false
  unwrittenRead := false

/-- The environment of which nothing has been fixed: every answer is a free value. -/
def freeEnv : Env where
  aux := []
  sink := none
  acted := []
  actedCount := 0
  auxCount := 0
  phy := []
  phyReady := false
  phyCount := 0
  irq := []
  irqQuiet := false
  irqCount := 0

/-- The AUX engine's registers at reset (R280). -/
def resetAux : AuxRegs where
  fsm := .idle
  req := { word := 0, addrOnly := false, isI2c := false, isMot := false, rw := .read, size := 0 }
  wdata := zeroBuf
  rdata := zeroBuf
  reply := { replyType := 0, bytesRead := 0, auxM := 0, replyReceived := false, errStatus := 0, errCode := 0 }
  replyValid := false
  completion := false

/-- The host interface registers at reset (R280). -/
def resetPort : HostRegs where
  hcmd := 0
  hbuf := zeroBuf
  hbufWritten := Vector.replicate 16 false
  resStatus := 0
  resReply := 0
  resPayload := 0
  resParam := zeroParam

/-- The parameter store at reset (R280): the two OPEN parameters, unlocked. -/
def resetStore : ParamStore where
  defaultParam := Config.defaultParamInit
  sigTable := Config.signalTableInit
  configLocked := false

/-- The link-training registers at reset (R280). -/
def resetTrain : TrainRegs where
  sessionParam := zeroParam
  phase := .idle
  micro := none
  status := zeroStatus
  retry := 0
  notUpdated := 0
  cap := zeroBuf
  lstat := Vector.replicate 6 0
  eqTps := .tps2
  resultValid := false
  result := zeroStatus

/-- The PHY shadows at reset: `UNKNOWN` (R280). -/
def resetPhy : PhyRegs where
  lanes := .unknown
  rate := .unknown
  pattern := .unknown
  drive := Vector.replicate 4 .unknown
  xmitMask := .unknown
  fec := .unknown
  power := Vector.replicate 4 .unknown
  framing := .unknown
  video := .unknown

/-- The block at reset (R280). -/
def Block.reset : Block where
  aux := resetAux
  port := resetPort
  ibuf := zeroBuf
  store := resetStore
  train := resetTrain
  phy := resetPhy
  sirq := zeroSirq
  svc := { pending := false, active := false }
  faults := noFaults
  refused := false
  hist := []
  loc := zeroLocals
  env := freeEnv

/-- The machine right after reset (R280): no command runs, and no host action has been placed. -/
def State.reset : State where
  blk := Block.reset
  seq := []
  host := []

end Sys2Proof.Machine
end

