-- ==== Sys2Proof/Machine/Ops.lean ====
section
/-! DEFINITION. The named operations over the registers, the event history and the environment: raising a fault (spec/60_exceptions.md
R255), appending an event (spec/10_state.md R40), reading and writing the buffers, the signal table and the reference sink's bytes
(spec/20_memory.md R72), and taking the oracle agents' answers (spec/00_scope.md R7). -/

namespace Sys2Proof.Machine

/-- How a piece of the sequencer's code ends: it runs on, leaves a loop, returns a status (held in the locals), or has raised a
fault, after which the machine takes no further step (R255). -/
inductive Sig where
  | norm
  | brk
  | ret
  | halt
  deriving DecidableEq, Repr

/-! ### Code -/

/-- Code in a row. -/
def block : List Code → Code
  | [] => .skip
  | [c] => c
  | c :: cs => .seq c (block cs)

/-- A checked access whose failure ends the routine by `onFail` (R200, R218, R242). -/
def accessOr (a : Access) (onFail : Code) : Code := .seq (.access a) (.cond .accessOk .skip onFail)

/-! ### Faults and events -/

/-- The mark of fault `f` set (R39). -/
def FaultSet.add (s : FaultSet) : Fault → FaultSet
  | .sequenceViolation => { s with sequenceViolation := true }
  | .configWriteAfterUse => { s with configWriteAfterUse := true }
  | .overlappingTransfer => { s with overlappingTransfer := true }
  | .commandOverlap => { s with commandOverlap := true }
  | .unwrittenRead => { s with unwrittenRead := true }

/-- A fault of the set, the first in the order of R255's table; none when the set is empty. -/
def FaultSet.first? (s : FaultSet) : Option Fault :=
  if s.sequenceViolation then some .sequenceViolation
  else if s.configWriteAfterUse then some .configWriteAfterUse
  else if s.overlappingTransfer then some .overlappingTransfer
  else if s.commandOverlap then some .commandOverlap
  else if s.unwrittenRead then some .unwrittenRead
  else none

/-- RAISING A FAULT (R255), the one operation for all of them: the step that raises it changes no other state. -/
def raise (f : Fault) (b : Block) : Block := { b with faults := b.faults.add f }

/-- A fault ends the code it is raised in. -/
def halted (f : Fault) (b : Block) : Sig × Block := (.halt, raise f b)

/-- An event appended to `HIST` (R40). -/
def log (e : Event) (b : Block) : Block := { b with hist := b.hist ++ [e] }

/-- `return st` (R12): the status becomes the returned one, and the routine ends. -/
def returning (st : Status) (b : Block) : Sig × Block := (.ret, { b with loc.ret := st })

/-- The numbers of the status codes (R250). -/
def Status.code : Status → Byte
  | .ok => 0
  | .invalidArgument => 1
  | .timeout => 2
  | .protocolError => 3
  | .busy => 4
  | .retry => 5
  | .fatal => 6

/-- The numbers of `T_PHASE` (R33). -/
def Phase.code : Phase → BitVec 3
  | .idle => 0
  | .initOk => 1
  | .retryPending => 2
  | .crOk => 3
  | .eqOk => 4
  | .failedPending => 5
  | .done => 6
  | .failed => 7

/-- The end of a command (R251): `RES_STATUS <- S`, the event `CmdEnd(S)`, and no micro-step position any more. -/
def endCommand (b : Block) : Block :=
  { log (.cmdEnd b.loc.ret) b with port.resStatus := b.loc.ret.code, train.micro := none }

/-! ### Host buffer, signal table -/

/-- The host writes `HBUF[i]` (R27). -/
def writeHbuf (i : Fin 16) (v : Byte) (b : Block) : Block :=
  { b with port.hbuf := b.port.hbuf.set i v, port.hbufWritten := b.port.hbufWritten.set i true }

/-- The host has written every byte `HBUF[0..n-1]` (R127). -/
def hbufReady (p : HostRegs) (n : Nat) : Bool := (p.hbufWritten.toList.take n).all id

/-- The place of an entry in the signal table (R30). -/
def sigIndex (rate swing preemp : BitVec 2) : Fin 64 := (rate ++ swing ++ preemp : BitVec 6).toFin

/-- `SigLookup(r, s, p)` (R177). -/
def sigLookup (st : ParamStore) (rate swing preemp : BitVec 2) : SigCodes := st.sigTable[sigIndex rate swing preemp]

/-- `SIG_TABLE[r][s][p] <- c` (R175). -/
def sigStore (st : ParamStore) (rate swing preemp : BitVec 2) (c : SigCodes) : ParamStore :=
  { st with sigTable := st.sigTable.set (sigIndex rate swing preemp) c }

/-! ### The reference sink's bytes (R72)

A list of (address, byte) pairs in one canonical form: addresses rising, none of 2^20 or more, no byte 0 listed. An unlisted
address reads as 0. -/

/-- What an unlisted address of the reference sink holds. -/
def sinkDefault : Byte := 0

/-- `M[a]`. -/
def memRead : List Host.Cell → Nat → Byte
  | [], _ => sinkDefault
  | (b, w) :: m, a => if a = b then w else memRead m a

/-- `M[a] <- v`, keeping the canonical form. -/
def memWrite : List Host.Cell → Nat → Byte → List Host.Cell
  | [], a, v => if v = sinkDefault then [] else [(a, v)]
  | (b, w) :: m, a, v =>
    if a < b then (if v = sinkDefault then (b, w) :: m else (a, v) :: (b, w) :: m)
    else if a = b then (if v = sinkDefault then m else (a, v) :: m)
    else (b, w) :: memWrite m a v

/-- The canonical form above an address. -/
def memWfFrom : Nat → List Host.Cell → Bool
  | _, [] => true
  | lo, (b, w) :: m => decide (lo ≤ b) && decide (b < 2 ^ 20) && decide (w ≠ sinkDefault) && memWfFrom (b + 1) m

/-- The canonical form. -/
def memWf (m : List Host.Cell) : Bool := memWfFrom 0 m

/-- The address `addr + i` of a burst at the reference sink: modulo 2^20 (R56, R72). -/
def sinkAddr (addr i : Nat) : Nat := (addr + i) % 2 ^ 20

/-- One byte written at the reference sink: at 0x00201 the bits of `v` are cleared instead (R64, R72). -/
def sinkPut (m : List Host.Cell) (a : Nat) (v : Byte) : List Host.Cell :=
  if a = 0x201 then memWrite m a (memRead m a &&& ~~~v) else memWrite m a v

/-- A native write of consecutive bytes at the reference sink (R72). -/
def sinkWrite (m : List Host.Cell) (addr : Nat) : Nat → List Byte → List Host.Cell
  | _, [] => m
  | i, v :: vs => sinkWrite (sinkPut m (sinkAddr addr i) v) addr (i + 1) vs

/-- The data bytes of a native read of `size` bytes at the reference sink (R72); the bytes the reply does not carry are those of
`stale` (R24). -/
def sinkRead (m : List Host.Cell) (addr size : Nat) (stale : Buf) : Buf :=
  Vector.ofFn fun i => if i.val < size then memRead m (sinkAddr addr i.val) else stale[i]

/-- Bytes placed at the reference sink from outside, by a test's scenario (R72). -/
def sinkPlace (m : List Host.Cell) (addr : Nat) : Nat → List Byte → List Host.Cell
  | _, [] => m
  | i, v :: vs => sinkPlace (memWrite m (sinkAddr addr i) v) addr (i + 1) vs

/-- The scripted bytes of a scenario taken for a read at 0x00202 or at 0x00280 (R72). -/
def sinkScript (s : RefSink) (addr : Nat) : RefSink :=
  if addr = 0x202 then
    match s.status with
    | [] => s
    | v :: vs => { s with mem := sinkPlace s.mem 0x202 0 v.toList, status := vs }
  else if addr = 0x280 then
    match s.fec with
    | [] => s
    | v :: vs => { s with mem := memWrite s.mem 0x280 v, fec := vs }
  else s

/-- A reply of the reference sink: `reply_received = 1`, no error (R72), `aux_m = 0` (the conventions of 95_test_vectors.md). -/
def sinkReply (replyType : BitVec 4) (bytesRead : Byte) : ReplyStatus where
  replyType := replyType
  bytesRead := bytesRead
  auxM := 0
  replyReceived := true
  errStatus := 0
  errCode := 0

/-- The DPCD address of the request in `REQ`. -/
def reqAddr (q : ReqReg) : Nat := (q.word.extractLsb' 8 20).toNat

/-- The reference sink after the request in `REQ`, of which `k` data bytes reached it (R65, R72): the first `k` bytes of a native
write are stored; a native read that reached it takes the scenario's scripted bytes; an i2c request changes nothing. -/
def sinkAfter (s : RefSink) (q : ReqReg) (wdata : Buf) (k : Nat) : RefSink :=
  if q.isI2c then s
  else match q.rw with
    | .read => if k = 0 then s else sinkScript s (reqAddr q)
    | _ => { s with mem := sinkWrite s.mem (reqAddr q) 0 ((wdata.first q.size.toNat).take k) }

/-- The reference sink's answer to the request in `REQ`, whose bytes have all reached it (R72). The data bytes that the reply does
not carry are those of `stale`. -/
def sinkAnswer (s : RefSink) (q : ReqReg) (wdata stale : Buf) : AuxAnswer × RefSink :=
  let s' := sinkAfter s q wdata q.size.toNat
  (if q.isI2c then .reply (sinkReply 4#4 1) stale
    else match q.rw with
      | .read => .reply (sinkReply 0#4 (q.size + 1)) (sinkRead s'.mem (reqAddr q) q.size.toNat stale)
      | _ => .reply (sinkReply 0#4 1) stale,
    s')

/-! ### The agents' answers (R7) -/

/-- How many data bytes of a request reach the reference sink where its answer is overruled (R65): the next number fixed, else a
free value. -/
def Env.nextActed (e : Env) : Nat × Env :=
  match e.acted with
  | k :: ks => (k, { e with acted := ks })
  | [] => (Config.actedBytes e.actedCount, { e with actedCount := e.actedCount + 1 })

/-- The environment after an answer that overrules the reference sink's, if there is one. The model's choice (log entry 21): such
a request, timed out or answered, may have reached the sink's bytes or not, or in part. -/
def Env.overrule (e : Env) (q : ReqReg) (wdata : Buf) : Env :=
  match e.sink with
  | none => e
  | some s => { e.nextActed.2 with sink := some (sinkAfter s q wdata e.nextActed.1) }

/-- The AUX-channel agent's next answer to the request in `REQ` (R128): the next one fixed, else the reference sink's, else a
free value. -/
def Env.nextAux (e : Env) (q : ReqReg) (wdata : Buf) : AuxAnswer × Env :=
  match e.aux with
  | a :: as => (a, { e with aux := as }.overrule q wdata)
  | [] =>
    let e' := { e with auxCount := e.auxCount + 1 }
    match e.sink with
    | some s =>
      let r := sinkAnswer s q wdata (Config.uncarriedData e.auxCount)
      (r.1, { e' with sink := some r.2 })
    | none => (Config.auxAnswer e.auxCount, e')

/-- Whether the PHY answers `Busy` to a command that waits for PHY-ready (R37): the next answer fixed, else `Ok` of a PHY declared
ready, else a free value. -/
def Env.nextPhy (e : Env) : Bool × Env :=
  match e.phy with
  | d :: ds => (d, { e with phy := ds })
  | [] => if e.phyReady then (false, e) else (Config.phyBusy e.phyCount, { e with phyCount := e.phyCount + 1 })

/-- What the sink-IRQ source and the scheduler choose at this boundary (R262, R264): the next choice fixed, else nothing of a
source declared quiet, else a free value. -/
def Env.nextBoundary (e : Env) : Boundary × Env :=
  match e.irq with
  | d :: ds => (d, { e with irq := ds })
  | [] =>
    if e.irqQuiet then ({ request := false, serve := .times 0 }, e)
    else (Config.boundary e.irqCount, { e with irqCount := e.irqCount + 1 })

end Sys2Proof.Machine
end

