-- ==== Sys2Proof/Machine/Operands.lean ====
section
/-! DEFINITION. The encodings the block forms and reads (spec/30_encoding.md R81 to R86, R88, R99 to R106): the AUX request word
and its wire form, and the DPCD field encodings. -/

namespace Sys2Proof.Machine

/-! ### The AUX request (R82 to R86) -/

/-- The direction of a u2 code of the host port (R94): 0 Read, 1 Write, 2 WriteStatusUpdate; none for 3 (R125). -/
def rwOf (code : BitVec 2) : Option Rw :=
  match code with
  | 0#2 => some .read
  | 1#2 => some .write
  | 2#2 => some .wsu
  | _ => none

/-- `rwcode` (R82): 0b00 Write, 0b01 Read, 0b10 WSU. -/
def rwCode : Rw → BitVec 2
  | .write => 0b00#2
  | .read => 0b01#2
  | .wsu => 0b10#2

/-- `CMD = (~is_i2c, is_mot, rwcode[1:0])` (R82). -/
def cmdOf (isI2c isMot : Bool) (rw : Rw) : BitVec 4 := bit (!isI2c) ++ bit isMot ++ rwCode rw

/-- `LEN` (R83): 0 for size 0, else size - 1. -/
def lenOf (size : Byte) : Byte := if size = 0 then 0 else size - 1

/-- `Format(q)` (R126): the request register for a request whose direction is `rw`. -/
def format (q : Request) (rw : Rw) : ReqReg where
  word := cmdOf q.isI2c q.isMot rw ++ q.addr ++ lenOf q.size
  addrOnly := q.size == 0
  isI2c := q.isI2c
  isMot := q.isMot
  rw := rw
  size := q.size

/-- The request as it is sent on the AUX channel (R85). -/
def wireBytes (r : ReqReg) (wdata : Buf) : List Byte :=
  [r.word.extractLsb' 24 8, r.word.extractLsb' 16 8, r.word.extractLsb' 8 8]
    ++ (if r.addrOnly then [] else [r.word.extractLsb' 0 8])
    ++ (if r.rw = .write then wdata.first r.size.toNat else [])

/-- The request's length on the wire (R86). -/
def wireLength (r : ReqReg) : Nat :=
  if r.addrOnly then 3 else 4 + (if r.rw = .write then r.size.toNat else 0)

/-- Byte 0 of a reply on the wire: the reply type in bits [7:4] (R88). -/
def replyByte (replyType : BitVec 4) : Byte := replyType ++ 0#4

/-! ### Rates, lanes, patterns, levels (R99 to R102) -/

/-- `BW_CODE(i)` (R99). -/
def bwCode (rate : BitVec 2) : Byte :=
  match rate with
  | 0#2 => 0x06
  | 1#2 => 0x0A
  | 2#2 => 0x14
  | _ => 0x1E

/-- `MBPS(i)` (R99). -/
def mbpsOf (rate : BitVec 2) : BitVec 32 :=
  match rate with
  | 0#2 => 1620
  | 1#2 => 2700
  | 2#2 => 5400
  | _ => 8100

/-- `KHZ(i)` (R99). -/
def khzOf (rate : BitVec 2) : BitVec 32 :=
  match rate with
  | 0#2 => 162000
  | 1#2 => 270000
  | 2#2 => 540000
  | _ => 810000

/-- The number of lanes (R100). -/
def LaneCount.toNat : LaneCount → Nat
  | .one => 1
  | .two => 2
  | .four => 4

/-- Lane `i` is active iff `i < n` (R100). -/
def laneActive (n : LaneCount) (lane : Lane) : Bool := decide (lane.val < n.toNat)

/-- `LANE_MASK(n) = (1 << n) - 1` (R100). -/
def laneMask : LaneCount → BitVec 4
  | .one => 0x1
  | .two => 0x3
  | .four => 0xF

/-- `LANE_COUNT_SET`: lane count in bits [4:0], enhanced framing in bit 7 (R100). -/
def laneCountSet (n : LaneCount) (enhanceFrameEn : Bool) : Byte :=
  bit enhanceFrameEn ++ 0b00#2 ++ BitVec.ofNat 5 n.toNat

/-- `NEXT_LANES` (R100): 4 to 2, 2 to 1; none from 1. -/
def nextLanes : LaneCount → Option LaneCount
  | .four => some .two
  | .two => some .one
  | .one => none

/-- `PAT_BYTE` (R101). -/
def patByte : Pattern → Byte
  | .none => 0x00
  | .tps1 => 0x21
  | .tps2 => 0x22
  | .tps3 => 0x23
  | .tps4 => 0x07

/-- The transmitter pattern of a channel-equalization choice. -/
def Tps.pattern : Tps → Pattern
  | .tps2 => .tps2
  | .tps3 => .tps3
  | .tps4 => .tps4

/-- `LANE_SET(s, p)` (R102): swing in [1:0], max swing in 2, pre-emphasis in [4:3], max pre-emphasis in 5. -/
def laneSet (s p : BitVec 2) : Byte := 0b00#2 ++ bit (p == Config.maxPreemp) ++ p ++ bit (s == Config.maxSwing) ++ s

/-! ### Status and adjust fields (R103, R104), configuration bytes (R105), sink-IRQ fields (R106) -/

/-- The nibble of lane `i` in the two bytes that pack four lanes: the even lane low (R58, R103, R104). -/
def laneNibble (low high : Byte) (lane : Lane) : BitVec 4 :=
  let b := if lane.val / 2 = 0 then low else high
  if lane.val % 2 = 0 then b.extractLsb' 0 4 else b.extractLsb' 4 4

/-- `NIB(i)` (R103). -/
def statusNibble (lstat : Vector Byte 6) (lane : Lane) : BitVec 4 := laneNibble lstat[0] lstat[1] lane

/-- The swing field of an adjust-request nibble (R104). -/
def adjSwing (nib : BitVec 4) : BitVec 2 := nib.extractLsb' 0 2

/-- The pre-emphasis field of an adjust-request nibble (R104). -/
def adjPreemp (nib : BitVec 4) : BitVec 2 := nib.extractLsb' 2 2

/-- `DOWNSPREAD_CTRL` (R105). -/
def downspreadByte (sscEn : Bool) : Byte := if sscEn then 0x10 else 0x00

/-- `MAIN_LINK_CHANNEL_CODING_SET` (R105). -/
def channelCodingByte : Byte := 0x01

/-- `FEC_CONFIGURATION` (R105). -/
def fecReadyByte : Byte := 0x01

/-- The 80-bit custom pattern's id in `PHY_TEST_PATTERN` (R106). -/
def customPatternId : Byte := 0x04

/-- The value of `PARAM.SET` names a lane count (R96). -/
def laneCountOf (value : Byte) : Option LaneCount :=
  match value with
  | 1#8 => some .one
  | 2#8 => some .two
  | 4#8 => some .four
  | _ => none

/-- The value of `PARAM.SET` names a channel-equalization pattern (R96). -/
def tpsOf (value : Byte) : Option Tps :=
  match value with
  | 2#8 => some .tps2
  | 3#8 => some .tps3
  | 4#8 => some .tps4
  | _ => none

/-- `Legal(FIELD, VALUE)` (R174). -/
def legalParam (field value : Byte) : Bool :=
  if field = 0 then decide (value ≤ 3)
  else if field = 1 then (laneCountOf value).isSome
  else if field ≤ 9 then decide (value ≤ 3)
  else if field ≤ 12 then decide (value ≤ 1)
  else if field = 13 then (tpsOf value).isSome
  else false

/-- The three table indices are at most 3 (R175). -/
def legalIndices (rate swing preemp : Byte) : Bool :=
  decide (rate ≤ 3) && decide (swing ≤ 3) && decide (preemp ≤ 3)

end Sys2Proof.Machine
end

