-- ==== Sys2Proof/Machine/Flags.lean ====
section
/-! DEFINITION. The checks and predicates the rules compute: validation of a request (spec/40_aux_engine.md R121 to R125),
classification of a reply (R130 to R132), clock-recovery and equalization success (spec/30_encoding.md R103), the loop bound
(spec/42_link_training.md R207, R214). -/

namespace Sys2Proof.Machine

/-! ### Reply types (R88) -/

/-- `ACK`. -/
def ack : BitVec 4 := 0x0#4
/-- `NACK`. -/
def nack : BitVec 4 := 0x1#4
/-- `DEFER`. -/
def deferType : BitVec 4 := 0x2#4
/-- `I2C_NACK`. -/
def i2cNack : BitVec 4 := 0x4#4
/-- `I2C_DEFER`. -/
def i2cDefer : BitVec 4 := 0x8#4

/-- The reply type synthesized at a timeout (R129). -/
def timeoutReply (isI2c : Bool) : BitVec 4 := if isI2c then i2cDefer else deferType

/-! ### Validation (R121 to R125) -/

/-- The direction of a request that passes validation; none where a check fails. Every failing check gives the same outcome
(R125). -/
def validRw (q : Request) : Option Rw :=
  match rwOf q.rw with
  | none => none
  | some rw =>
    if Config.auxMaxSize < q.size then none
    else if !q.isI2c && q.isMot then none
    else if !q.isI2c && q.size == 0 then none
    else if (rw == .wsu || (q.isI2c && !q.isMot)) && q.size != 0 then none
    else some rw

/-! ### The reply (R130 to R132) -/

/-- An error bit is set, or no reply was received (R130). -/
def replyError (r : ReplyStatus) : Bool := r.errStatus != 0 || !r.replyReceived

/-- The payload the reply type gives (R131); none for a reply type that is not classified. The subtraction is modulo 256. -/
def classify (r : ReplyStatus) (rw : Rw) (size : Byte) : Option Byte :=
  let wf := rw != .read
  if r.replyType = ack then
    some (if wf then (if r.bytesRead = 1 then size else r.auxM) else r.bytesRead - 1)
  else if r.replyType = nack || r.replyType = i2cNack then
    some (if wf then (if r.bytesRead = 1 then 0 else r.auxM) else 0)
  else if r.replyType = deferType || r.replyType = i2cDefer then some 0
  else none

/-- The payload of a reply that passes the error flags, the classification and the payload bound (R130 to R132); none where the
transfer ends with `ProtocolError`. -/
def acceptedPayload (r : ReplyStatus) (rw : Rw) (size : Byte) : Option Byte :=
  if replyError r then none
  else match classify r rw size with
    | none => none
    | some p => if size < p then none else some p

/-! ### Link status (R103) and the loop bound -/

/-- `CR_OK(n)` (R103): clock recovery is done on every active lane. -/
def crOk (lstat : Vector Byte 6) (n : LaneCount) : Bool :=
  lanes.all fun i => !laneActive n i || (statusNibble lstat i).getLsbD 0

/-- `EQ_OK(n)` (R103): clock recovery and channel equalization are done on every active lane. -/
def eqOk (lstat : Vector Byte 6) (n : LaneCount) : Bool :=
  lanes.all fun i => !laneActive n i || ((statusNibble lstat i).getLsbD 0 && (statusNibble lstat i).getLsbD 1)

/-- `RETRY == bound || NOT_UPDATED == NOT_UPDATED_MAX` (R207, R214). -/
def boundReached (t : TrainRegs) (bound : Nat) : Bool :=
  t.retry == BitVec.ofNat 8 bound || t.notUpdated == BitVec.ofNat 8 Config.notUpdatedMax

/-- The levels of a lane whose sum is above what the drive allows; logged, never rejected (R178). -/
def driveSumHigh (swing preemp : BitVec 2) : Bool := decide (Config.driveSumMax < swing.toNat + preemp.toNat)

end Sys2Proof.Machine
end

