-- ==== Sys2Proof/Machine/Phy.lean ====
section
/-! DEFINITION. The PHY command port (spec/10_state.md R37): what each Hardware Operations command records in the shadows, and the
commands the sequencer's rules give (spec/41_phy_param_store.md R178; spec/42_link_training.md R194 to R223). -/

namespace Sys2Proof.Machine

/-- The two commands that wait for PHY-ready and may answer `Busy` (R37, R254). -/
def HwCmd.waits : HwCmd → Bool
  | .setLaneCountLinkRate _ _ => true
  | .setPerLanePowerMode _ => true
  | _ => false

/-- The shadow registers after a command (R37). On `Busy`, `set_lane_count_link_rate` leaves lanes and rate unknown, and the
forced `set_per_lane_power_mode` records the commanded mode all the same. -/
def HwCmd.shadow (c : HwCmd) (busy : Bool) (p : PhyRegs) : PhyRegs :=
  match c with
  | .setLaneCountLinkRate n r =>
    if busy then { p with lanes := .unknown, rate := .unknown } else { p with lanes := .known n, rate := .known r }
  | .setPattern x => { p with pattern := .known x }
  | .setVswingPreemp lane d => { p with drive := p.drive.set lane (.known d) }
  | .enableXmit mask => { p with xmitMask := .known mask }
  | .enableFec on => { p with fec := .known on }
  | .setPerLanePowerMode lane => { p with power := p.power.set lane .powerDown }
  | .setFramingMode f => { p with framing := .known f }
  | .videoEnable on => { p with video := .known on }

/-- `HwOp(op, args)` (R37): the command is performed, its answer drawn where it waits, its shadow and event recorded. -/
def hwOp (c : HwCmd) (b : Block) : Block :=
  let (busy, env') := if c.waits then b.env.nextPhy else (false, b.env)
  log (.hwOp c busy) { b with phy := c.shadow busy b.phy, env := env', loc.busy := busy }

/-- What `set_vswing_preemp` programs for a lane: its levels and the table's codes at the current rate (R177, R178). -/
def laneDrive (b : Block) (lane : Lane) : Drive :=
  let s := b.train.status.swing[lane]
  let p := b.train.status.preemp[lane]
  { swing := s, preemp := p, codes := sigLookup b.store b.train.status.curRate s p }

/-- The framing mode of the session (R194). -/
def sessionFraming (p : LinkPhyParam) : Framing :=
  if p.fecEn then .efFec else if p.enhanceFrameEn then .ef else .normal

/-- The command with its arguments, read from the registers. -/
def PhyAct.command (c : PhyAct) (b : Block) : HwCmd :=
  match c with
  | .linkRate => .setLaneCountLinkRate b.train.status.curLanes b.train.status.curRate
  | .pattern p => .setPattern p
  | .patternEq => .setPattern b.train.eqTps.pattern
  | .driveLane lane => .setVswingPreemp lane (laneDrive b lane)
  | .xmitActive => .enableXmit (laneMask b.train.status.curLanes)
  | .xmitOff => .enableXmit 0
  | .fec on => .enableFec on
  | .powerDown lane => .setPerLanePowerMode lane
  | .framing => .setFramingMode (sessionFraming b.train.sessionParam)
  | .videoOff => .videoEnable false

/-- The log of levels whose sum is too high, before they are programmed (R178). -/
def logDriveSum (c : PhyAct) (b : Block) : Block :=
  match c with
  | .driveLane lane =>
    let s := b.train.status.swing[lane]
    let p := b.train.status.preemp[lane]
    if driveSumHigh s p then log (.log (.driveSum lane s p)) b else b
  | _ => b

/-- A PHY command of the sequencer, with the log that precedes it in the same micro-step (log entry 35). -/
def phyAct (c : PhyAct) (b : Block) : Block := hwOp (c.command b) (logDriveSum c b)

end Sys2Proof.Machine
end

