-- ==== Sys2Proof/Machine/AuxEngine.lean ====
section
/-! DEFINITION. The AUX transaction engine (spec/40_aux_engine.md R120 to R137): issuing a request, the bounded wait, and the
result of a transfer, shared by the host's transfers (R146) and the checked DPCD accesses (R150, R151). -/

namespace Sys2Proof.Machine

/-- The data bytes an issue sends: `B[0..size-1]` of a write, none of any other request (R127, R85). -/
def sentBytes (rw : Rw) (size : Byte) (buf : Buf) : List Byte :=
  if rw = .write then buf.first size.toNat else []

/-- Format, write data and issue (R126, R127): a validated request with direction `rw` and buffer `buf`. An issue while a
transaction is in flight is the fault `OverlappingTransfer`. -/
def auxIssue (q : Request) (rw : Rw) (buf : Buf) (b : Block) : Sig × Block :=
  match b.aux.fsm with
  | .wait => halted .overlappingTransfer b
  | .idle =>
    let data := sentBytes rw q.size buf
    let r := format q rw
    (.norm, log (.auxIssue r.word r.addrOnly data)
      { b with
        aux.req := r
        aux.wdata := b.aux.wdata.put data
        aux.replyValid := false
        aux.completion := false
        aux.fsm := .wait })

/-- The registers after the AUX-channel agent's answer has been taken (R128): on a reply, `REPLY`, `RDATA` and `REPLY.valid` are
written and the completion signal is set and consumed; on the wait's expiry they keep their values (R129). -/
def takeAnswer (a : AuxAnswer) (b : Block) : Block :=
  match a with
  | .reply r rdata =>
    log (.auxReply r rdata)
      { b with
        aux.fsm := .idle
        aux.reply := r
        aux.rdata := rdata
        aux.replyValid := true
        aux.completion := false }
  | .timedOut => log .auxTimeout { b with aux.fsm := .idle }

/-- The result of a transfer (R120): status, reply type, payload size, and the bytes read back into the buffer (R133). -/
structure Xfer where
  status : Status
  reply : BitVec 4
  payload : Byte
  data : List Byte
  deriving DecidableEq, Repr

/-- The result of the transfer of the request in `REQ` for an answer (R129 to R134). -/
def xferResult (q : ReqReg) : AuxAnswer → Xfer
  | .timedOut => { status := .timeout, reply := timeoutReply q.isI2c, payload := 0, data := [] }
  | .reply r rdata =>
    match acceptedPayload r q.rw q.size with
    | none => { status := .protocolError, reply := r.replyType, payload := 0, data := [] }
    | some p =>
      { status := .ok, reply := r.replyType, payload := p
        data := if q.rw = .read then rdata.first p.toNat else [] }

/-- Whether the engine logs the transfer (R135): its final reply type is not ACK, by a classified reply or a timeout. -/
def logsNonAck (x : Xfer) : Bool := x.status != .protocolError && x.reply != ack

/-- The log of R135, appended after the transfer. -/
def logXfer (x : Xfer) (b : Block) : Block :=
  if logsNonAck x then log (.log (.nonAck b.aux.req b.aux.reply b.aux.replyValid)) b else b

/-- The wait and the end of the transfer in flight (R128 to R135): the agent's answer is taken, the transfer logged, and its
result handed on. Without a transaction in flight there is nothing to wait for, and nothing happens. -/
def auxComplete (k : Xfer → Block → Block) (b : Block) : Block :=
  match b.aux.fsm with
  | .idle => b
  | .wait =>
    let (a, env') := b.env.nextAux b.aux.req b.aux.wdata
    let x := xferResult b.aux.req a
    k x (logXfer x (takeAnswer a { b with env := env' }))

/-! ### The host's transfer (R134, R146) -/

/-- Stages 1 to 3 of the host's transfer (R120): a request that fails validation ends with `InvalidArgument`, payload 0, and no
I/O and no write of `REQ` (R121 to R125, R134; against the words of R257, log entry 34); an AUX write that would read an unwritten
byte of `HBUF` is the fault `UnwrittenRead` (R127). -/
def hostIssue (q : Request) (b : Block) : Sig × Block :=
  match validRw q with
  | none => returning .invalidArgument { b with port.resPayload := 0 }
  | some rw =>
    if rw = .write && !hbufReady b.port q.size.toNat then halted .unwrittenRead b
    else auxIssue q rw b.port.hbuf b

/-- The result registers of the host's transfer (R133, R134). -/
def hostResult (x : Xfer) (b : Block) : Block :=
  { b with
    port.hbuf := b.port.hbuf.put x.data
    port.resReply := x.reply
    port.resPayload := x.payload
    loc.st := x.status }

/-- Stages 4 to 10 of the host's transfer (R120). -/
def hostComplete (b : Block) : Block := auxComplete hostResult b

end Sys2Proof.Machine
end

