-- ==== Sys2Proof/Machine/Access.lean ====
section
/-! DEFINITION. The checked DPCD accesses (spec/40_aux_engine.md R149 to R152) by name: their addresses and sizes (spec/20_memory.md
R54), the bytes the writes send, and what a successful read stores. -/

namespace Sys2Proof.Machine

/-- Whether the access writes. -/
def Access.isWrite : Access → Bool
  | .fecReady => true
  | .downspread => true
  | .channelCoding => true
  | .linkConfig => true
  | .trainingSet _ => true
  | .idlePattern => true
  | .irqClear => true
  | .capability => false
  | .linkStatus => false
  | .fecStatus => false
  | .irqVector => false
  | .testRequest => false
  | .testLinkRate => false
  | .testLaneCount => false
  | .phyTestPattern => false
  | .customPattern => false
  | .adjustRequest => false

/-- The DPCD address (R54). -/
def Access.addr : Access → BitVec 20
  | .capability => 0x00000
  | .linkConfig => 0x00100
  | .trainingSet _ => 0x00102
  | .idlePattern => 0x00102
  | .downspread => 0x00107
  | .channelCoding => 0x00108
  | .fecReady => 0x00120
  | .irqVector => 0x00201
  | .irqClear => 0x00201
  | .linkStatus => 0x00202
  | .adjustRequest => 0x00206
  | .testRequest => 0x00218
  | .testLinkRate => 0x00219
  | .testLaneCount => 0x00220
  | .phyTestPattern => 0x00248
  | .customPattern => 0x00250
  | .fecStatus => 0x00280

/-- The number of bytes (R54, R193 to R246). -/
def Access.size : Access → Byte
  | .capability => 16
  | .linkConfig => 2
  | .trainingSet _ => 5
  | .linkStatus => 6
  | .customPattern => 10
  | .adjustRequest => 2
  | .idlePattern => 1
  | .downspread => 1
  | .channelCoding => 1
  | .fecReady => 1
  | .irqVector => 1
  | .irqClear => 1
  | .testRequest => 1
  | .testLinkRate => 1
  | .testLaneCount => 1
  | .phyTestPattern => 1
  | .fecStatus => 1

/-- The request of the access: native, without MOT (R150 to R152). -/
def Access.request (a : Access) : Request where
  isI2c := false
  isMot := false
  rw := if a.isWrite then 1 else 0
  addr := a.addr
  size := a.size

/-- The direction of the access. -/
def Access.rw (a : Access) : Rw := if a.isWrite then .write else .read

/-- The pattern of the training-set burst (R202, R211). -/
def burstPattern (t : TrainRegs) (eq : Bool) : Pattern := if eq then t.eqTps.pattern else .tps1

/-- The training-set byte of a lane, formed from its `STATUS` levels, active or not (R202). -/
def laneByte (t : TrainRegs) (lane : Lane) : Byte := laneSet t.status.swing[lane] t.status.preemp[lane]

/-- The bytes a writing access sends (R194 to R196, R202, R211, R220, R246). -/
def Access.data (a : Access) (b : Block) : List Byte :=
  match a with
  | .fecReady => [fecReadyByte]
  | .downspread => [downspreadByte b.train.sessionParam.sscEn]
  | .channelCoding => [channelCodingByte]
  | .linkConfig =>
    [bwCode b.train.status.curRate, laneCountSet b.train.status.curLanes b.train.sessionParam.enhanceFrameEn]
  | .trainingSet eq => patByte (burstPattern b.train eq) :: lanes.map (laneByte b.train)
  | .idlePattern => [patByte .none]
  | .irqClear => [b.loc.v]
  | _ => []

/-- The adjust request of every lane from the two bytes read for a phy-pattern test (R104, R244). -/
def captureAdjust (low high : Byte) (s : SinkIrqRec) : SinkIrqRec :=
  { s with
    adjSwing := Vector.ofFn fun i => adjSwing (laneNibble low high i)
    adjPreemp := Vector.ofFn fun i => adjPreemp (laneNibble low high i) }

/-- What a successful read stores from `IBUF` (R193, R204, R222, R240 to R244). -/
def Access.store (a : Access) (b : Block) : Block :=
  match a with
  | .capability => { b with train.cap := b.ibuf }
  | .linkStatus => { b with train.lstat := Vector.ofFn fun i => b.ibuf[i.val]'(by omega) }
  | .fecStatus => { b with loc.fecSeen := b.ibuf[0].getLsbD 0 }
  | .irqVector => { b with loc.v := b.ibuf[0], sirq.raw := b.ibuf[0], sirq.valid := true }
  | .testRequest => { b with loc.t := b.ibuf[0] }
  | .testLinkRate => { b with sirq.testRate := b.ibuf[0] }
  | .testLaneCount => { b with sirq.testLanes := (b.ibuf[0].extractLsb' 0 5).setWidth 8 }
  | .phyTestPattern => { b with sirq.testPattern := b.ibuf[0] }
  | .customPattern =>
    { b with sirq.custom := Vector.ofFn fun i => b.ibuf[i.val]'(by omega), sirq.customValid := true }
  | .adjustRequest => { b with sirq := captureAdjust b.ibuf[0] b.ibuf[1] b.sirq }
  | _ => b

/-- The issue of a wrapper's request (R150, R151): a write first puts its bytes into `IBUF`. -/
def accessIssue (a : Access) (b : Block) : Sig × Block :=
  let buf := b.ibuf.put (a.data b)
  match auxIssue a.request a.rw buf b with
  | (.norm, b') => (.norm, { b' with ibuf := buf })
  | r => r

/-- The transfer asks to be issued again: `OK` with DEFER or I2C_DEFER (R149). -/
def deferred (x : Xfer) : Bool := x.status == .ok && (x.reply == deferType || x.reply == i2cDefer)

/-- The access succeeded: `OK`, ACK, and the whole size (R149). -/
def succeeded (a : Access) (x : Xfer) : Bool := x.status == .ok && x.reply == ack && x.payload == a.size

/-- The outcome of a wrapper's transfer: `IBUF` receives what was read (R133), and a success stores it (R150). -/
def accessResult (a : Access) (x : Xfer) (b : Block) : Block :=
  let b' := { b with ibuf := b.ibuf.put x.data, loc.ok := succeeded a x, loc.defer := deferred x }
  if succeeded a x then a.store b' else b'

/-- The completion of a wrapper's request. -/
def accessComplete (a : Access) (b : Block) : Block := auxComplete (accessResult a) b

end Sys2Proof.Machine
end

