-- ==== Sys2Proof/Machine/Updates.lean ====
section
/-! DEFINITION. The internal updates of the sequencer: the parameter store's (spec/41_phy_param_store.md R171 to R175), the
training registers' (spec/42_link_training.md R192 to R225) and the parser's (spec/43_sink_irq.md R240 to R248). -/

namespace Sys2Proof.Machine

/-! ### Parameter store -/

/-- One field of `DEFAULT_PARAM` (R173), for a legal pair (R174). -/
def setParamField (field value : Byte) (p : LinkPhyParam) : LinkPhyParam :=
  let level : BitVec 2 := value.extractLsb' 0 2
  let on := value.getLsbD 0
  match field with
  | 0#8 => { p with initRate := level }
  | 1#8 => { p with initLanes := (laneCountOf value).getD p.initLanes }
  | 2#8 => { p with initSwing := p.initSwing.set 0 level }
  | 3#8 => { p with initSwing := p.initSwing.set 1 level }
  | 4#8 => { p with initSwing := p.initSwing.set 2 level }
  | 5#8 => { p with initSwing := p.initSwing.set 3 level }
  | 6#8 => { p with initPreemp := p.initPreemp.set 0 level }
  | 7#8 => { p with initPreemp := p.initPreemp.set 1 level }
  | 8#8 => { p with initPreemp := p.initPreemp.set 2 level }
  | 9#8 => { p with initPreemp := p.initPreemp.set 3 level }
  | 10#8 => { p with fecEn := on }
  | 11#8 => { p with sscEn := on }
  | 12#8 => { p with enhanceFrameEn := on }
  | 13#8 => { p with eqTps := (tpsOf value).getD p.eqTps }
  | _ => p

/-- `SIG_TABLE[RATE][SWING][PREEMP] <- (PRE, MAIN, POST)` (R175), for indices at most 3. -/
def setSigEntry (rate swing preemp pre main post : Byte) (st : ParamStore) : ParamStore :=
  sigStore st (rate.extractLsb' 0 2) (swing.extractLsb' 0 2) (preemp.extractLsb' 0 2)
    { pre := pre, main := main, post := post }

/-! ### Training -/

/-- The first actions of `Init()` (R192): the lock, the session's copy of the parameters, the earlier result invalid; one internal
update (log entry 35). -/
def initBegin (b : Block) : Block :=
  { b with
    store.configLocked := true
    train.sessionParam := b.store.defaultParam
    train.resultValid := false }

/-- `STATUS` seeded from the session's parameters (R197). -/
def seedStatus (p : LinkPhyParam) : LinkPhyStatus where
  curLanes := p.initLanes
  curRate := p.initRate
  swing := p.initSwing
  preemp := p.initPreemp
  mbps := 0
  khz := 0
  fecActive := false

/-- `min(v, max)` (R206). -/
def clamp (v max : BitVec 2) : BitVec 2 := if v ≤ max then v else max

/-- The clamped swing request of a lane (R206). -/
def requestedSwing (t : TrainRegs) (lane : Lane) : BitVec 2 :=
  clamp (adjSwing (laneNibble t.lstat[4] t.lstat[5] lane)) Config.maxSwing

/-- The clamped pre-emphasis request of a lane (R206). -/
def requestedPreemp (t : TrainRegs) (lane : Lane) : BitVec 2 :=
  clamp (adjPreemp (laneNibble t.lstat[4] t.lstat[5] lane)) Config.maxPreemp

/-- Some active lane's request differs from the level sent (R206). -/
def adjustChanged (t : TrainRegs) : Bool :=
  lanes.any fun i =>
    laneActive t.status.curLanes i &&
      (requestedSwing t i != t.status.swing[i] || requestedPreemp t i != t.status.preemp[i])

/-- `Adjust()` (R206): the active lanes take the request, the others keep their levels. -/
def adjust (t : TrainRegs) : TrainRegs :=
  { t with
    status.swing := Vector.ofFn fun i => if laneActive t.status.curLanes i then requestedSwing t i else t.status.swing[i]
    status.preemp := Vector.ofFn fun i => if laneActive t.status.curLanes i then requestedPreemp t i else t.status.preemp[i]
    notUpdated := if adjustChanged t then 0 else t.notUpdated + 1 }

/-- `ResetLevels()` (R216) with `T_PHASE <- RETRY_PENDING` (R215). -/
def retryWith (t : TrainRegs) (n : LaneCount) (rate : BitVec 2) : TrainRegs :=
  { t with
    status.curLanes := n
    status.curRate := rate
    status.swing := t.sessionParam.initSwing
    status.preemp := t.sessionParam.initPreemp
    phase := .retryPending }

/-- `Fallback()` (R215, R216): the registers and the status it returns. -/
def fallback (t : TrainRegs) : TrainRegs × Status :=
  if t.status.curRate = 0 then
    match nextLanes t.status.curLanes with
    | some n => (retryWith t n t.sessionParam.initRate, .retry)
    | none => ({ t with phase := .failedPending }, .fatal)
  else (retryWith t t.status.curLanes (t.status.curRate - 1), .retry)

/-- `STATUS.mbps` and `STATUS.khz` from the final rate (R224). -/
def negotiate (s : LinkPhyStatus) : LinkPhyStatus :=
  { s with mbps := mbpsOf s.curRate, khz := khzOf s.curRate }

/-! ### The updates -/

/-- What an internal update does. R6 does not say which register writes together are one internal update: that the writes of one arm
happen in one micro-step, and that `Adjust()` and `RETRY <- RETRY + 1` are two, is the model's choice (log entry 35). -/
def runUpdate (u : Update) (b : Block) : Block :=
  match u with
  | .paramGet => { b with port.resParam := b.store.defaultParam }
  | .paramSession => { b with train.sessionParam := b.store.defaultParam, port.resParam := b.store.defaultParam }
  | .paramSet field value => { b with store.defaultParam := setParamField field value b.store.defaultParam }
  | .sigtabSet rate swing preemp pre main post =>
    { b with store := setSigEntry rate swing preemp pre main post b.store }
  | .initBegin => initBegin b
  | .seedStatus => { b with train.status := seedStatus b.train.sessionParam }
  | .selectEq => { b with train.eqTps := Config.selectEqTps b.train.sessionParam.eqTps b.train.cap }
  | .setPhase p => { b with train.phase := p }
  | .clearCounters => { b with train.retry := 0, train.notUpdated := 0 }
  | .adjust => { b with train := adjust b.train }
  | .countRetry => { b with train.retry := b.train.retry + 1 }
  | .fallback => { b with train := (fallback b.train).1, loc.st := (fallback b.train).2 }
  | .fecBegin => { b with loc.fecSeen := false }
  | .fecActive on => { b with train.status.fecActive := on }
  | .fecGiveUp => log (.log (.fecDisabled Config.fecRetry)) { b with train.status.fecActive := false }
  | .negotiate => { b with train.status := negotiate b.train.status }
  | .recordResult => { b with train.result := b.train.status, train.resultValid := true, train.phase := .done }
  | .failSession => { b with train.resultValid := false, train.phase := .failed }
  | .irqBegin => log .sinkIrq { b with sirq := zeroSirq, loc.st := .ok }
  | .irqTestTraining => { b with sirq.testTraining := true }
  | .irqTestPhy => { b with sirq.testPhy := true }
  | .irqCp => { b with sirq.cpIrq := true }
  | .irqError => { b with loc.st := .protocolError }

/-- What a test answers. -/
def evalTest (t : Test) (b : Block) : Bool :=
  match t with
  | .phaseIn ps => ps.contains b.train.phase
  | .unlocked => !b.store.configLocked
  | .legal field value => legalParam field value
  | .indices rate swing preemp => legalIndices rate swing preemp
  | .accessOk => b.loc.ok
  | .phyOk => !b.loc.busy
  | .laneActive lane => laneActive b.train.status.curLanes lane
  | .crDone => crOk b.train.lstat b.train.status.curLanes
  | .eqDone => eqOk b.train.lstat b.train.status.curLanes
  | .bound n => boundReached b.train n
  | .fecEn => b.train.sessionParam.fecEn
  | .fecSeen => b.loc.fecSeen
  | .vectorBit i => b.loc.v.getLsbD i
  | .testBit i => b.loc.t.getLsbD i
  | .customPattern => b.sirq.testPattern == customPatternId
  | .returned st => b.loc.ret == st

end Sys2Proof.Machine
end

