-- ==== Sys2Proof/Machine/SinkParser.lean ====
section
/-! DEFINITION. The code of the sink service-interrupt parser (spec/43_sink_irq.md R240 to R247), run by the host command
`SINK.IRQ` and by the asynchronous service (spec/60_exceptions.md R262). -/

namespace Sys2Proof.Machine

/-- A failed test read: the status is set at once, and no further test field is read (R242). -/
def testReadFailed : Code := block [.first (.upd .irqError), .ret .protocolError]

/-- The training test's fields (R243). -/
def trainingTestCode : Code :=
  block [.act (.upd .irqTestTraining), accessOr .testLinkRate testReadFailed, accessOr .testLaneCount testReadFailed]

/-- The phy-pattern test's fields (R244). -/
def phyTestCode : Code :=
  block
    [.act (.upd .irqTestPhy),
     accessOr .phyTestPattern testReadFailed,
     .cond .customPattern (accessOr .customPattern testReadFailed) .skip,
     accessOr .adjustRequest testReadFailed]

/-- `TestRequest()` (R242). -/
def testRequestCode : Code :=
  block
    [accessOr .testRequest testReadFailed,
     .cond (.testBit 0) trainingTestCode .skip,
     .cond (.testBit 3) phyTestCode .skip,
     .ret .ok]

/-- `SinkIrq()` (R240): the vector read, the test request, content protection, the clear. -/
def parserCode : Code :=
  block
    [.act (.upd .irqBegin),
     accessOr .irqVector (.ret .protocolError),
     .cond (.vectorBit 1) (.call testRequestCode) .skip,
     .cond (.vectorBit 2) (.act (.upd .irqCp)) .skip,
     accessOr .irqClear (.first (.upd .irqError)),
     .retSt]

end Sys2Proof.Machine
end

