-- ==== Sys2Proof/Machine/Engine.lean ====
section
/-! DEFINITION. Running the sequencer's code: one micro-step (spec/00_scope.md R6), the boundary between two of them with the sink
service (spec/60_exceptions.md R262 to R264), a whole piece of code at once, and the same code one micro-step at a time. -/

namespace Sys2Proof.Machine

/-- One micro-step. -/
def runAct (a : Act) (b : Block) : Sig × Block :=
  match a with
  | .hostIssue q => hostIssue q b
  | .hostComplete => (.norm, hostComplete b)
  | .issue a => accessIssue a b
  | .complete a => (.norm, accessComplete a b)
  | .phy c => (.norm, phyAct c b)
  | .delay l => (.norm, log (.delay l) b)
  | .upd u => (.norm, runUpdate u b)

/-! ### A whole piece of code -/

/-- `p` at most `n` times, left by `brk` (R201, R210, R222). -/
def iterate (p : Block → Sig × Block) : Nat → Block → Sig × Block
  | 0, b => (.norm, b)
  | n + 1, b =>
    match p b with
    | (.norm, b') => iterate p n b'
    | (.brk, b') => (.norm, b')
    | r => r

/-- One transaction of a wrapper (R150, R151): issue and completion, each after its boundary `hook`. -/
def accessOnce (hook : Block → Block) (a : Access) (b : Block) : Sig × Block :=
  match runAct (.issue a) (hook b) with
  | (.norm, b') => runAct (.complete a) (hook b')
  | r => r

/-- The retries of a deferred access, at most `n` more (R149). -/
def accessRetry (hook : Block → Block) (a : Access) : Nat → Block → Sig × Block
  | 0, b => (.norm, b)
  | n + 1, b =>
    match accessOnce hook a b with
    | (.norm, b') => if b'.loc.defer then accessRetry hook a n b' else (.norm, b')
    | r => r

/-- A checked access (R150, R151). -/
def runAccess (hook : Block → Block) (a : Access) (b : Block) : Sig × Block :=
  match accessOnce hook a b with
  | (.norm, b') => if b'.loc.defer then accessRetry hook a Config.deferRetryMax b' else (.norm, b')
  | r => r

/-- A piece of code run to its end, with `hook` at every boundary before a micro-step. -/
def runCode (hook : Block → Block) : Code → Block → Sig × Block
  | .skip, b => (.norm, b)
  | .first a, b => runAct a b
  | .act a, b => runAct a (hook b)
  | .access a, b => runAccess hook a b
  | .mark m, b => (.norm, { b with train.micro := m })
  | .cond t p q, b => if evalTest t b then runCode hook p b else runCode hook q b
  | .seq p q, b =>
    match runCode hook p b with
    | (.norm, b') => runCode hook q b'
    | r => r
  | .loop n p, b => iterate (runCode hook p) n b
  | .brk, b => (.brk, b)
  | .ret st, b => returning st b
  | .retSt, b => returning b.loc.st b
  | .call p, b =>
    match runCode hook p b with
    | (.ret, b') => (.norm, b')
    | r => r
  | .fault f, b => halted f b

/-! ### The sink service at a boundary (R262) -/

/-- The source's choice at a boundary: a request merges into the pending bit (R262). -/
def drawBoundary (b : Block) : Serve × Block :=
  let (d, env') := b.env.nextBoundary
  (d.serve, { b with env := env', svc.pending := b.svc.pending || d.request })

/-- A boundary at which no service is taken: inside the service itself, which does not nest (R262, R266). -/
def quietBoundary (b : Block) : Block := (drawBoundary b).2

/-- A pending service may be taken: none is active, and no transaction is in flight (R262). -/
def serviceAdmitted (b : Block) : Bool := b.svc.pending && !b.svc.active && b.aux.fsm == .idle

/-- The start of the service (R262). -/
def beginService (b : Block) : Block := { b with svc.pending := false, svc.active := true }

/-- The end of the service (R247, R262): an error is logged, no result register is written, and the interrupted command's locals
are as they were. `SIRQ` keeps what the service wrote, even where it interrupted a host `SINK.IRQ` (R248): the model's choice, log
entry 33. -/
def endService (saved : Locals) (b : Block) : Block :=
  let b' := if b.loc.ret = .ok then b else log (.log (.sinkIrqError b.sirq.raw)) b
  { b' with svc.active := false, loc := saved }

/-- The service from its start to its end (R262). -/
def runService (b : Block) : Block :=
  match runCode quietBoundary parserCode (beginService b) with
  | (.halt, b') => b'
  | (_, b') => endService b.loc b'

/-- The service taken up to `n` times in a row, as long as it is admitted (R262, R264). -/
def serve : Nat → Block → Block
  | 0, b => b
  | n + 1, b => if serviceAdmitted b then serve n (runService b) else b

/-- How often a service is taken at a boundary of a command run whole. Such a run has an end, so a source without end is not in it
(log entry 6); the run micro-step by micro-step has it (R263). -/
def Serve.count : Serve → Nat
  | .times n => n
  | .endless => 0

/-- The boundary between two micro-steps, with its services run whole (R262). -/
def boundary (b : Block) : Block := serve (drawBoundary b).1.count (drawBoundary b).2

/-! ### Commands -/

/-- A command from its acceptance to its end (R251): the event `CmdStart`, the code, and, unless it faulted, the status. -/
def runCommand (opc : Byte) (c : Code) (s : State) : Host.Outcome State Fault Refusal :=
  .next { s with
    blk :=
      match runCode boundary c (log (.cmdStart opc) s.blk) with
      | (.halt, b) => b
      | (_, b) => endCommand b }

/-! ### One micro-step at a time (R6) -/

/-- What stands before the next micro-step, or between commands, after a boundary's choice. -/
def serveFrames : Serve → List Frame
  | .times 0 => []
  | .times (n + 1) => [.serve (n + 1)]
  | .endless => [.serveOn]

/-- The boundary between commands (R262): its choice, and the services still to be taken, which then run micro-step by micro-step.
A machine with a fault takes no further step (R255). -/
def between (b : Block) : Block × List Frame :=
  match b.faults.first? with
  | none => ((drawBoundary b).2, serveFrames (drawBoundary b).1)
  | some _ => (b, [])

/-- The source requests service (R262). -/
def requestService (b : Block) : Block := { b with svc.pending := true }

/-- The position after a `return`: the innermost routine, service or command ends (R12). -/
def unwindRet : List Frame → List Frame
  | [] => []
  | .callEnd :: k => k
  | .endService saved :: k => .endService saved :: k
  | .endCmd :: k => .endCmd :: k
  | _ :: k => unwindRet k

/-- The position after leaving the innermost loop. -/
def unwindBrk : List Frame → List Frame
  | [] => []
  | .loopEnd _ _ :: k => k
  | _ :: k => unwindBrk k

/-- The position after a micro-step that ended with `sig`, where `k` is what follows it and `stay` what it stood at. -/
def unwind (sig : Sig) (stay k : List Frame) : List Frame :=
  match sig with
  | .norm => k
  | .brk => unwindBrk k
  | .ret => unwindRet k
  | .halt => stay

/-- A micro-step performed at position `f :: k`. -/
def performAt (a : Act) (f : Frame) (k : List Frame) (b : Block) : Block × List Frame :=
  ((runAct a b).2, unwind (runAct a b).1 (f :: k) k)

/-- One step of a running command (R6): a boundary's choice, a micro-step, or a move of the sequencer's position. -/
def microStep (b : Block) : List Frame → Block × List Frame
  | [] => (b, [])
  | .now a :: k => performAt a (.now a) k b
  | .serve 0 :: k => (b, k)
  | .serve (n + 1) :: k =>
    if serviceAdmitted b then (beginService b, .code parserCode :: .endService b.loc :: .serve n :: k) else (b, k)
  | .serveOn :: k =>
    if serviceAdmitted (requestService b) then
      (beginService b, .code parserCode :: .endService b.loc :: .serveOn :: k)
    else (requestService b, k)
  | .endService saved :: k => (endService saved b, k)
  | .loopEnd n p :: k => (b, .code (.loop n p) :: k)
  | .callEnd :: k => (b, k)
  | .retry a n :: k =>
    match b.loc.defer, n with
    | true, m + 1 => (b, .code (.act (.issue a)) :: .code (.act (.complete a)) :: .retry a m :: k)
    | _, _ => (b, k)
  | .endCmd :: k => ((between (endCommand b)).1, (between (endCommand b)).2 ++ k)
  | .code c :: k =>
    match c with
    | .skip => (b, k)
    | .first a => performAt a (.code (.first a)) k b
    | .act a => ((drawBoundary b).2, serveFrames (drawBoundary b).1 ++ .now a :: k)
    | .access a =>
      (b, .code (.act (.issue a)) :: .code (.act (.complete a)) :: .retry a Config.deferRetryMax :: k)
    | .mark m => ({ b with train.micro := m }, k)
    | .cond t p q => (b, .code (if evalTest t b then p else q) :: k)
    | .seq p q => (b, .code p :: .code q :: k)
    | .loop 0 _ => (b, k)
    | .loop (n + 1) p => (b, .code p :: .loopEnd n p :: k)
    | .brk => (b, unwindBrk k)
    | .ret st => ((returning st b).2, unwindRet k)
    | .retSt => ((returning b.loc.st b).2, unwindRet k)
    | .call p => (b, .code p :: .callEnd :: k)
    | .fault f => (raise f b, .code (.fault f) :: k)

end Sys2Proof.Machine
end

