-- ==== Sys2Proof/Machine/AuxCommands.lean ====
section
/-! DEFINITION. The AUX request kinds and the raw host transfer (spec/40_aux_engine.md R138 to R146): each is `Transfer` (R120) on
the host buffer with the fields of its row of R81. -/

namespace Sys2Proof.Machine

open Host

/-- The code of a host transfer (R120, R146). -/
def transferCode (q : Request) : Code := block [.first (.hostIssue q), .act .hostComplete, .retSt]

/-- `AUX_TRANSFER` for a request (R146): opcode 0x01. -/
def hostTransfer (q : Request) (s : State) : Outcome State Fault Refusal := runCommand 0x01 (transferCode q) s

/-- The request of `AUX.NR` (R138). -/
def auxNrRequest (addr : BitVec 20) (size : Byte) : Request :=
  { isI2c := false, isMot := false, rw := 0, addr := addr, size := size }

/-- The request of `AUX.NW` (R139). -/
def auxNwRequest (addr : BitVec 20) (size : Byte) : Request :=
  { isI2c := false, isMot := false, rw := 1, addr := addr, size := size }

/-- The request of `AUX.I2CR` (R140). -/
def auxI2crRequest (addr : BitVec 20) (size : Byte) : Request :=
  { isI2c := true, isMot := false, rw := 0, addr := addr, size := size }

/-- The request of `AUX.I2CR.MOT` (R141). -/
def auxI2crMotRequest (addr : BitVec 20) (size : Byte) : Request :=
  { isI2c := true, isMot := true, rw := 0, addr := addr, size := size }

/-- The request of `AUX.I2CW` (R142). -/
def auxI2cwRequest (addr : BitVec 20) (size : Byte) : Request :=
  { isI2c := true, isMot := false, rw := 1, addr := addr, size := size }

/-- The request of `AUX.I2CW.MOT` (R143). -/
def auxI2cwMotRequest (addr : BitVec 20) (size : Byte) : Request :=
  { isI2c := true, isMot := true, rw := 1, addr := addr, size := size }

/-- The request of `AUX.I2CWSU` (R144). -/
def auxI2cwsuRequest (addr : BitVec 20) (size : Byte) : Request :=
  { isI2c := true, isMot := false, rw := 2, addr := addr, size := size }

/-- The request of `AUX.I2CWSU.MOT` (R145). -/
def auxI2cwsuMotRequest (addr : BitVec 20) (size : Byte) : Request :=
  { isI2c := true, isMot := true, rw := 2, addr := addr, size := size }

/-- The request of `AUX_TRANSFER` (R109, R146). -/
def rawRequest (isI2c isMot : Bool) (rw : BitVec 2) (size : Byte) (addr : BitVec 20) : Request :=
  { isI2c := isI2c, isMot := isMot, rw := rw, addr := addr, size := size }

/-- `AUX.NR addr, size` (R138). -/
def execAuxNr (addr : BitVec 20) (size : Byte) (s : State) : Outcome State Fault Refusal :=
  hostTransfer (auxNrRequest addr size) s

/-- `AUX.NW addr, size` (R139). -/
def execAuxNw (addr : BitVec 20) (size : Byte) (s : State) : Outcome State Fault Refusal :=
  hostTransfer (auxNwRequest addr size) s

/-- `AUX.I2CR addr, size` (R140). -/
def execAuxI2cr (addr : BitVec 20) (size : Byte) (s : State) : Outcome State Fault Refusal :=
  hostTransfer (auxI2crRequest addr size) s

/-- `AUX.I2CR.MOT addr, size` (R141). -/
def execAuxI2crMot (addr : BitVec 20) (size : Byte) (s : State) : Outcome State Fault Refusal :=
  hostTransfer (auxI2crMotRequest addr size) s

/-- `AUX.I2CW addr, size` (R142). -/
def execAuxI2cw (addr : BitVec 20) (size : Byte) (s : State) : Outcome State Fault Refusal :=
  hostTransfer (auxI2cwRequest addr size) s

/-- `AUX.I2CW.MOT addr, size` (R143). -/
def execAuxI2cwMot (addr : BitVec 20) (size : Byte) (s : State) : Outcome State Fault Refusal :=
  hostTransfer (auxI2cwMotRequest addr size) s

/-- `AUX.I2CWSU addr, size` (R144). -/
def execAuxI2cwsu (addr : BitVec 20) (size : Byte) (s : State) : Outcome State Fault Refusal :=
  hostTransfer (auxI2cwsuRequest addr size) s

/-- `AUX.I2CWSU.MOT addr, size` (R145). -/
def execAuxI2cwsuMot (addr : BitVec 20) (size : Byte) (s : State) : Outcome State Fault Refusal :=
  hostTransfer (auxI2cwsuMotRequest addr size) s

/-- `AUX_TRANSFER` (R146). -/
def execAuxTransfer (isI2c isMot : Bool) (rw : BitVec 2) (size : Byte) (addr : BitVec 20) (s : State) :
    Outcome State Fault Refusal :=
  hostTransfer (rawRequest isI2c isMot rw size addr) s

end Sys2Proof.Machine
end

