-- ==== Sys2Proof/Machine/ParamCommands.lean ====
section
/-! DEFINITION. The host commands of the PHY parameter store (spec/41_phy_param_store.md R171 to R176). -/

namespace Sys2Proof.Machine

open Host

/-- The code of `PARAM.GET` (R171). -/
def paramGetCode : Code := block [.first (.upd .paramGet), .ret .ok]

/-- The code of `PARAM.SESSION` (R172): only between sessions. -/
def paramSessionCode : Code :=
  .cond (.phaseIn [.idle, .done, .failed])
    (block [.first (.upd .paramSession), .ret .ok])
    (.fault .sequenceViolation)

/-- The code of `PARAM.SET` (R173, R174, R176). -/
def paramSetCode (field value : Byte) : Code :=
  .cond .unlocked
    (.cond (.legal field value) (block [.first (.upd (.paramSet field value)), .ret .ok]) (.ret .invalidArgument))
    (.fault .configWriteAfterUse)

/-- The code of `SIGTAB.SET` (R175, R176). -/
def sigtabSetCode (rate swing preemp pre main post : Byte) : Code :=
  .cond .unlocked
    (.cond (.indices rate swing preemp)
      (block [.first (.upd (.sigtabSet rate swing preemp pre main post)), .ret .ok])
      (.ret .invalidArgument))
    (.fault .configWriteAfterUse)

/-- `PARAM.GET` (R171): opcode 0x10. -/
def execParamGet (s : State) : Outcome State Fault Refusal := runCommand 0x10 paramGetCode s

/-- `PARAM.SESSION` (R172): opcode 0x11. -/
def execParamSession (s : State) : Outcome State Fault Refusal := runCommand 0x11 paramSessionCode s

/-- `PARAM.SET field, value` (R173): opcode 0x12. -/
def execParamSet (field value : Byte) (s : State) : Outcome State Fault Refusal :=
  runCommand 0x12 (paramSetCode field value) s

/-- `SIGTAB.SET rate, swing, preemp, pre, main, post` (R175): opcode 0x13. -/
def execSigtabSet (rate swing preemp pre main post : Byte) (s : State) : Outcome State Fault Refusal :=
  runCommand 0x13 (sigtabSetCode rate swing preemp pre main post) s

end Sys2Proof.Machine
end

