-- ==== Sys2Proof/Machine/SinkCommand.lean ====
section
/-! DEFINITION. The host command `SINK.IRQ` (spec/43_sink_irq.md R240): the parser run as an ordinary command. -/

namespace Sys2Proof.Machine

/-- `SINK.IRQ` (R240): opcode 0x20. -/
def execSinkIrq (s : State) : Host.Outcome State Fault Refusal := runCommand 0x20 parserCode s

end Sys2Proof.Machine
end

