-- ==== Sys2Proof/Machine/Training.lean ====
section
/-! DEFINITION. The link-training state machine (spec/42_link_training.md R190 to R226): the code of the four steps and of the
session driver, in the spec's order, and the host commands that run them. -/

namespace Sys2Proof.Machine

open Host

/-- The phases in which a session may start (R190). -/
def startPhases : List Phase := [.idle, .done, .failed]

/-- A step ends at once without a fallback: at the micro-step that failed, with no boundary in between (R200, R218, R265). -/
def abortCode (st : Status) : Code := block [.first (.upd (.setPhase .failedPending)), .ret st]

/-- An access whose failure aborts the step with `ProtocolError` (R200, R218). -/
def checked (a : Access) : Code := accessOr a (abortCode .protocolError)

/-! ### training_init (R192 to R200) -/

/-- FEC ready and framing (R194). -/
def framingCode : Code := block [.cond .fecEn (checked .fecReady) .skip, .act (.phy .framing)]

/-- `Init()` (R192). -/
def initCode : Code :=
  .cond (.phaseIn startPhases)
    (block
      [.act (.upd .initBegin),
       checked .capability,
       framingCode,
       checked .downspread,
       checked .channelCoding,
       .act (.upd .seedStatus),
       .act (.upd .selectEq),
       .act (.phy .xmitActive),
       .act (.upd (.setPhase .initOk)),
       .ret .ok])
    (.fault .sequenceViolation)

/-! ### The shared steps of an iteration (R202 to R204, R211) -/

/-- One lane of `ProgramDrive()` (R178). -/
def driveLaneCode (lane : Lane) : Code := .cond (.laneActive lane) (.act (.phy (.driveLane lane))) .skip

/-- `ProgramDrive()` (R178): the active lanes in increasing order. -/
def programDriveCode : Code := block (lanes.map driveLaneCode)

/-- Step 1, the pattern set (R202; with `eq`, R211). -/
def patternSetCode (eq : Bool) : Code :=
  block
    [.mark (some .patternSet),
     programDriveCode,
     .act (.phy (if eq then .patternEq else .pattern .tps1)),
     checked .linkConfig,
     checked (.trainingSet eq)]

/-- Step 2, the settle delay (R203, R211). -/
def settleCode (l : DelayLabel) : Code := block [.mark (some .delay), .act (.delay l)]

/-- Step 3, the status read (R204, R211). -/
def statusReadCode : Code := block [.mark (some .statusRead), checked .linkStatus]

/-- Adjust and count (R206, R207, R214): the loop is left when the bound is reached. -/
def adjustCode (bound : Nat) : Code :=
  block
    [.mark (some .adjustOrFallback),
     .act (.upd .adjust),
     .act (.upd .countRetry),
     .cond (.bound bound) .brk .skip]

/-- `Fallback()` and its status (R208, R215). -/
def fallbackCode : Code := block [.mark (some .adjustOrFallback), .act (.upd .fallback), .retSt]

/-! ### training_cr (R201 to R209) -/

/-- One iteration of clock recovery. -/
def crIteration : Code :=
  block
    [patternSetCode false,
     settleCode .crDelay,
     statusReadCode,
     .mark (some .convergenceCheck),
     .cond .crDone (block [.act (.upd (.setPhase .crOk)), .ret .ok]) .skip,
     adjustCode Config.crRetry]

/-- `Cr()` (R201). Its entry has no micro-step position: the spec names none outside the five of R33, and the model holds none there
(log entry 32). -/
def crCode : Code :=
  .cond (.phaseIn [.initOk, .retryPending])
    (block
      [.mark none,
       .act (.phy .linkRate),
       .cond .phyOk .skip (abortCode .busy),
       .act (.phy .xmitActive),
       .act (.upd .clearCounters),
       .loop Config.crRetry crIteration,
       fallbackCode])
    (.fault .sequenceViolation)

/-! ### training_eq (R210 to R214) -/

/-- One iteration of channel equalization: loss of clock recovery leaves the loop before the success test (R212, R213). -/
def eqIteration : Code :=
  block
    [patternSetCode true,
     settleCode .eqDelay,
     statusReadCode,
     .mark (some .convergenceCheck),
     .cond .crDone .skip .brk,
     .cond .eqDone (block [.act (.upd (.setPhase .eqOk)), .ret .ok]) .skip,
     adjustCode Config.eqRetry]

/-- `Eq()` (R210). Its entry has no micro-step position (log entry 32). -/
def eqCode : Code :=
  .cond (.phaseIn [.crOk])
    (block [.mark none, .act (.upd .clearCounters), .loop Config.eqRetry eqIteration, fallbackCode])
    (.fault .sequenceViolation)

/-! ### training_completed (R219 to R225) -/

/-- The teardown (R220): the sink write's result is ignored. Completion has no micro-step position (log entry 32). -/
def teardownCode : Code :=
  block [.mark none, .act (.phy (.pattern .none)), .access .idlePattern, .act (.phy .videoOff)]

/-- The failure branch (R221): all four lanes powered down, in increasing order, whatever the PHY answers. -/
def failBranchCode : Code :=
  block
    [.act (.phy .xmitOff),
     block (lanes.map fun lane => .act (.phy (.powerDown lane))),
     .act (.upd .failSession),
     .ret .fatal]

/-- One attempt at enabling FEC (R222). -/
def fecAttempt : Code :=
  block
    [.act (.phy (.fec true)),
     .act (.delay .fecWait),
     .access .fecStatus,
     .cond .fecSeen .brk .skip]

/-- FEC enabling and give-up (R222, R223). -/
def fecCode : Code :=
  .cond .fecEn
    (block
      [.act (.upd .fecBegin),
       .loop Config.fecRetry fecAttempt,
       .cond .fecSeen
         (.act (.upd (.fecActive true)))
         (block [.act (.phy (.fec false)), .act (.upd .fecGiveUp)])])
    (.act (.upd (.fecActive false)))

/-- `Completed(0)` (R219, R220, R221): in every phase. -/
def completedFail : Code := block [teardownCode, failBranchCode]

/-- `Completed(1)` (R219, R220, R222 to R225): after equalization only. -/
def completedOk : Code :=
  .cond (.phaseIn [.eqOk])
    (block [teardownCode, fecCode, .act (.upd .negotiate), .act (.upd .recordResult), .ret .ok])
    (.fault .sequenceViolation)

/-- `Completed(s)` (R219). -/
def completedCode (success : Bool) : Code := if success then completedOk else completedFail

/-! ### The session driver (R191) -/

/-- One rung of the ladder: clock recovery, equalization, and on success the completion. -/
def rungCode : Code :=
  block
    [.call crCode,
     .cond (.returned .retry) .skip
       (block
         [.cond (.returned .ok) .skip completedFail,
          .call eqCode,
          .cond (.returned .retry) .skip
            (block [.cond (.returned .ok) .skip completedFail, completedOk])])]

/-- `TRAIN.START` (R191). Every `Retry` lowers the pair of lanes and rate, so that the twelfth rung never answers `Retry` (R217)
and the code after the loop is not reached. -/
def startCode : Code :=
  .cond (.phaseIn startPhases)
    (block
      [.call initCode,
       .cond (.returned .ok) .skip completedFail,
       .loop Config.maxRungs rungCode,
       completedFail])
    (.fault .sequenceViolation)

/-! ### The host commands -/

/-- `TRAIN.START` (R191): opcode 0x02. -/
def execTrainStart (s : State) : Outcome State Fault Refusal := runCommand 0x02 startCode s

/-- `TRAIN.INIT` (R192): opcode 0x03. -/
def execTrainInit (s : State) : Outcome State Fault Refusal := runCommand 0x03 initCode s

/-- `TRAIN.CR` (R201): opcode 0x04. -/
def execTrainCr (s : State) : Outcome State Fault Refusal := runCommand 0x04 crCode s

/-- `TRAIN.EQ` (R210): opcode 0x05. -/
def execTrainEq (s : State) : Outcome State Fault Refusal := runCommand 0x05 eqCode s

/-- `TRAIN.DONE s` (R219): opcode 0x06. -/
def execTrainDone (success : Bool) (s : State) : Outcome State Fault Refusal :=
  runCommand 0x06 (completedCode success) s

end Sys2Proof.Machine
end

