-- ==== Sys2Proof/Machine/Dispatch.lean ====
section
/-! DEFINITION. One arm per instruction: its meaning. -/

namespace Sys2Proof.Machine

def exec (i : Instr) (s : State) : Host.Outcome State Fault Refusal :=
  match i with
  | .auxNr addr size => Sys2Proof.Machine.execAuxNr addr size s
  | .auxNw addr size => Sys2Proof.Machine.execAuxNw addr size s
  | .auxI2cr addr size => Sys2Proof.Machine.execAuxI2cr addr size s
  | .auxI2crMot addr size => Sys2Proof.Machine.execAuxI2crMot addr size s
  | .auxI2cw addr size => Sys2Proof.Machine.execAuxI2cw addr size s
  | .auxI2cwMot addr size => Sys2Proof.Machine.execAuxI2cwMot addr size s
  | .auxI2cwsu addr size => Sys2Proof.Machine.execAuxI2cwsu addr size s
  | .auxI2cwsuMot addr size => Sys2Proof.Machine.execAuxI2cwsuMot addr size s
  | .auxTransfer isI2c isMot rw size addr => Sys2Proof.Machine.execAuxTransfer isI2c isMot rw size addr s
  | .trainStart => Sys2Proof.Machine.execTrainStart s
  | .trainInit => Sys2Proof.Machine.execTrainInit s
  | .trainCr => Sys2Proof.Machine.execTrainCr s
  | .trainEq => Sys2Proof.Machine.execTrainEq s
  | .trainDone success => Sys2Proof.Machine.execTrainDone success s
  | .paramGet => Sys2Proof.Machine.execParamGet s
  | .paramSession => Sys2Proof.Machine.execParamSession s
  | .paramSet field value => Sys2Proof.Machine.execParamSet field value s
  | .sigtabSet rate swing preemp pre main post => Sys2Proof.Machine.execSigtabSet rate swing preemp pre main post s
  | .sinkIrq => Sys2Proof.Machine.execSinkIrq s

end Sys2Proof.Machine
end

