-- ==== Sys2Proof/WellFormed.lean ====
section
/-! DEFINITION. Which instructions have an encoding (spec/30_encoding.md R83, R84): the AUX request form cannot carry a size
above 16; every operand of every other instruction fits its field as it is. -/

namespace Sys2Proof

/-- The size fits the AUX request form: 0 (address-only, R84) or 1 to 16 (`LEN` = size - 1 with `LEN[7:4] = 0`, R83). -/
def sizeEncodable (size : BitVec 8) : Bool := decide (size ≤ 16#8)

/-- The instruction has an encoding. The AUX kinds need an encodable size; the raw transfer and the other host commands have
fields of exactly their operands' widths (R94 to R97). -/
def WellFormed : Instr → Bool
  | .auxNr _ size => sizeEncodable size
  | .auxNw _ size => sizeEncodable size
  | .auxI2cr _ size => sizeEncodable size
  | .auxI2crMot _ size => sizeEncodable size
  | .auxI2cw _ size => sizeEncodable size
  | .auxI2cwMot _ size => sizeEncodable size
  | .auxI2cwsu _ size => sizeEncodable size
  | .auxI2cwsuMot _ size => sizeEncodable size
  | .auxTransfer _ _ _ _ _ => true
  | .trainStart => true
  | .trainInit => true
  | .trainCr => true
  | .trainEq => true
  | .trainDone _ => true
  | .paramGet => true
  | .paramSession => true
  | .paramSet _ _ => true
  | .sigtabSet _ _ _ _ _ _ => true
  | .sinkIrq => true

end Sys2Proof
end

