-- ==== Sys2Proof/Decode.lean ====
section
/-! DEFINITION. Decoding and encoding (spec/30_encoding.md R80 to R87, R92 to R98, R107, R109; spec/opcode_table.json): from a
command word to an instruction or a named rejection, and back. -/

namespace Sys2Proof

/-- Why a word spells no operation. -/
inductive Reject where
  /-- `OPC` is unassigned (R98). -/
  | unassignedOpcode
  /-- A must-be-zero bit of a host command word is 1 (R98). -/
  | mustBeZero
  /-- `CMD` is 0x3, 0x7 or 0xA to 0xF (R87). -/
  | reservedCommand
  /-- `LEN[7:4]` is not 0 in an AUX request word: never issued (R83, R87). -/
  | reservedLength
  /-- `addr_only` is set and `LEN` is not 0: never formed (R84). -/
  | lengthWithAddrOnly
  deriving DecidableEq, Repr

/-- `HCMD[7:0]` (R92). -/
def hostOpc (w : BitVec 64) : Byte := w.extractLsb' 0 8

/-- The instruction `i` if the must-be-zero field is 0 (R92, R98). -/
def ifZero {n : Nat} (mbz : BitVec n) (i : Instr) : Except Reject Instr :=
  if mbz = 0 then .ok i else .error .mustBeZero

/-- A host command word (R93 to R98): opcode, operand fields, must-be-zero bits. -/
def decodeHost (w : BitVec 64) : Except Reject Instr :=
  match hostOpc w with
  | 0x01#8 =>
    ifZero (w.extractLsb' 40 24)
      (.auxTransfer (w.getLsbD 8) (w.getLsbD 9) (w.extractLsb' 10 2) (w.extractLsb' 12 8) (w.extractLsb' 20 20))
  | 0x02#8 => ifZero (w.extractLsb' 8 56) .trainStart
  | 0x03#8 => ifZero (w.extractLsb' 8 56) .trainInit
  | 0x04#8 => ifZero (w.extractLsb' 8 56) .trainCr
  | 0x05#8 => ifZero (w.extractLsb' 8 56) .trainEq
  | 0x06#8 => ifZero (w.extractLsb' 9 55) (.trainDone (w.getLsbD 8))
  | 0x10#8 => ifZero (w.extractLsb' 8 56) .paramGet
  | 0x11#8 => ifZero (w.extractLsb' 8 56) .paramSession
  | 0x12#8 => ifZero (w.extractLsb' 24 40) (.paramSet (w.extractLsb' 8 8) (w.extractLsb' 16 8))
  | 0x13#8 =>
    ifZero (w.extractLsb' 56 8)
      (.sigtabSet (w.extractLsb' 8 8) (w.extractLsb' 16 8) (w.extractLsb' 24 8)
        (w.extractLsb' 32 8) (w.extractLsb' 40 8) (w.extractLsb' 48 8))
  | 0x20#8 => ifZero (w.extractLsb' 8 56) .sinkIrq
  | _ => .error .unassignedOpcode

/-- The size an AUX request word carries: 0 when it is address-only (R84), else `LEN[3:0] + 1` with `LEN[7:4] = 0` (R83). -/
def decodeSize (len : Byte) (addrOnly : Bool) : Except Reject Byte :=
  if addrOnly then (if len = 0 then .ok 0 else .error .lengthWithAddrOnly)
  else if len.extractLsb' 4 4 = 0 then .ok (len + 1) else .error .reservedLength

/-- An AUX request word (R81, R83, R84, R87): `CMD`, address, `LEN`, and the address-only flag. -/
def decodeReq (w : BitVec 32) (addrOnly : Bool) : Except Reject Instr :=
  let addr : BitVec 20 := w.extractLsb' 8 20
  match decodeSize (w.extractLsb' 0 8) addrOnly with
  | .error e => .error e
  | .ok size =>
    match (w.extractLsb' 28 4 : BitVec 4) with
    | 0x0#4 => .ok (.auxI2cw addr size)
    | 0x1#4 => .ok (.auxI2cr addr size)
    | 0x2#4 => .ok (.auxI2cwsu addr size)
    | 0x4#4 => .ok (.auxI2cwMot addr size)
    | 0x5#4 => .ok (.auxI2crMot addr size)
    | 0x6#4 => .ok (.auxI2cwsuMot addr size)
    | 0x8#4 => .ok (.auxNw addr size)
    | 0x9#4 => .ok (.auxNr addr size)
    | _ => .error .reservedCommand

/-- Decoding, total on every word of either format. -/
def decode : CommandWord → Except Reject Instr
  | .host w => decodeHost w
  | .req w addrOnly => decodeReq w addrOnly

/-- An AUX request word from the row's `CMD` of R81: `{CMD, addr, LEN}`, with `LEN = 0` and the flag set at size 0 (R83, R84). -/
def encodeReq (cmd : BitVec 4) (addr : BitVec 20) (size : Byte) : CommandWord :=
  if size = 0 then .req (cmd ++ addr ++ 0#8) true else .req (cmd ++ addr ++ (size - 1)) false

/-- A host command word with no operands (R93): `HCMD[63:8] = 0`. -/
def encodePlain (opc : Byte) : CommandWord := .host (0#56 ++ opc)

/-- The `AUX_TRANSFER` word of R94. -/
def transferWord (isI2c isMot : Bool) (rw : BitVec 2) (size : Byte) (addr : BitVec 20) : BitVec 64 :=
  0#24 ++ addr ++ size ++ rw ++ bit isMot ++ bit isI2c ++ 0x01#8

/-- Encoding, from the tables of R81 and R93 to R97. It gives a word that decodes to the instruction for every well-formed one. -/
def encode : Instr → CommandWord
  | .auxNr addr size => encodeReq 0x9#4 addr size
  | .auxNw addr size => encodeReq 0x8#4 addr size
  | .auxI2cr addr size => encodeReq 0x1#4 addr size
  | .auxI2crMot addr size => encodeReq 0x5#4 addr size
  | .auxI2cw addr size => encodeReq 0x0#4 addr size
  | .auxI2cwMot addr size => encodeReq 0x4#4 addr size
  | .auxI2cwsu addr size => encodeReq 0x2#4 addr size
  | .auxI2cwsuMot addr size => encodeReq 0x6#4 addr size
  | .auxTransfer isI2c isMot rw size addr => .host (transferWord isI2c isMot rw size addr)
  | .trainStart => encodePlain 0x02#8
  | .trainInit => encodePlain 0x03#8
  | .trainCr => encodePlain 0x04#8
  | .trainEq => encodePlain 0x05#8
  | .trainDone success => .host (0#55 ++ bit success ++ 0x06#8)
  | .paramGet => encodePlain 0x10#8
  | .paramSession => encodePlain 0x11#8
  | .paramSet field value => .host (0#40 ++ value ++ field ++ 0x12#8)
  | .sigtabSet rate swing preemp pre main post =>
    .host (0#8 ++ post ++ main ++ pre ++ preemp ++ swing ++ rate ++ 0x13#8)
  | .sinkIrq => encodePlain 0x20#8

/-- The host command word the assembler of R107 gives for an instruction: `AUX.<kind>` assembles to `OPC = 0x01` with the fields
of its row of R81; a host command is its own word. -/
def assemble : Instr → BitVec 64
  | .auxNr addr size => transferWord false false 0#2 size addr
  | .auxNw addr size => transferWord false false 1#2 size addr
  | .auxI2cr addr size => transferWord true false 0#2 size addr
  | .auxI2crMot addr size => transferWord true true 0#2 size addr
  | .auxI2cw addr size => transferWord true false 1#2 size addr
  | .auxI2cwMot addr size => transferWord true true 1#2 size addr
  | .auxI2cwsu addr size => transferWord true false 2#2 size addr
  | .auxI2cwsuMot addr size => transferWord true true 2#2 size addr
  | i => match encode i with
    | .host w => w
    | .req _ _ => 0

/-- The pseudo-operation `AUX.I2C.STOP addr` of R108: an address-only i2c write without MOT. -/
def i2cStop (addr : BitVec 20) : Instr := .auxI2cw addr 0

/-- The command word of a row of spec/opcode_table.json, from its bits numbered as the table numbers them: a 32-bit row is an
AUX request word, whose address-only flag is the format's 33rd bit (bit 32, R80, R83); a 64-bit row is a host command word. -/
def tableWord (nbits w : Nat) : CommandWord :=
  if nbits = 32 then .req (BitVec.ofNat 32 w) (w.testBit 32) else .host (BitVec.ofNat 64 w)

/-- The instruction the decoder reads from a table row's bits; none where it refuses. -/
def decodeTableWord (nbits w : Nat) : Option Instr :=
  match decode (tableWord nbits w) with
  | .ok i => some i
  | .error _ => none

end Sys2Proof
end

