-- ==== Sys2Proof/Machine/HostPort.lean ====
section
/-! DEFINITION. The host port (spec/30_encoding.md R92, R98; spec/60_exceptions.md R251, R255, R256): accepting and refusing a
command word, starting a command that then runs micro-step by micro-step, the host's other actions, and the registers the host
may read (spec/10_state.md R43). -/

namespace Sys2Proof.Machine

/-- The host word a command word stands for: itself, or the word that assembles to the same AUX request (R107). -/
def hcmdWord (w : CommandWord) (i : Instr) : BitVec 64 :=
  match w with
  | .host h => h
  | .req _ _ => assemble i

/-- The machine with the host's action taken, and `HCMD` holding the word of the accepted command `i` (R27, R92). -/
def accepted (w : CommandWord) (i : Instr) (rest : List HostAction) (s : State) : State :=
  { s with host := rest, blk.port.hcmd := hcmdWord w i }

/-- The machine after a word that spells no command (R98, R256): `REFUSED <- 1` and nothing else. -/
def refusedWord (rest : List HostAction) (s : State) : State :=
  { s with host := rest, blk.refused := true }

/-- The opcode of an instruction's command (R93): `AUX.<kind>` is `AUX_TRANSFER` (R107). -/
def opcodeOf : Instr → Byte
  | .auxNr _ _ => 0x01
  | .auxNw _ _ => 0x01
  | .auxI2cr _ _ => 0x01
  | .auxI2crMot _ _ => 0x01
  | .auxI2cw _ _ => 0x01
  | .auxI2cwMot _ _ => 0x01
  | .auxI2cwsu _ _ => 0x01
  | .auxI2cwsuMot _ _ => 0x01
  | .auxTransfer _ _ _ _ _ => 0x01
  | .trainStart => 0x02
  | .trainInit => 0x03
  | .trainCr => 0x04
  | .trainEq => 0x05
  | .trainDone _ => 0x06
  | .paramGet => 0x10
  | .paramSession => 0x11
  | .paramSet _ _ => 0x12
  | .sigtabSet _ _ _ _ _ _ => 0x13
  | .sinkIrq => 0x20

/-- The code of an instruction's command. -/
def codeOf : Instr → Code
  | .auxNr addr size => transferCode (auxNrRequest addr size)
  | .auxNw addr size => transferCode (auxNwRequest addr size)
  | .auxI2cr addr size => transferCode (auxI2crRequest addr size)
  | .auxI2crMot addr size => transferCode (auxI2crMotRequest addr size)
  | .auxI2cw addr size => transferCode (auxI2cwRequest addr size)
  | .auxI2cwMot addr size => transferCode (auxI2cwMotRequest addr size)
  | .auxI2cwsu addr size => transferCode (auxI2cwsuRequest addr size)
  | .auxI2cwsuMot addr size => transferCode (auxI2cwsuMotRequest addr size)
  | .auxTransfer isI2c isMot rw size addr => transferCode (rawRequest isI2c isMot rw size addr)
  | .trainStart => startCode
  | .trainInit => initCode
  | .trainCr => crCode
  | .trainEq => eqCode
  | .trainDone success => completedCode success
  | .paramGet => paramGetCode
  | .paramSession => paramSessionCode
  | .paramSet field value => paramSetCode field value
  | .sigtabSet rate swing preemp pre main post => sigtabSetCode rate swing preemp pre main post
  | .sinkIrq => parserCode

/-- The acceptance of a command that then runs one micro-step at a time (R6, R251). -/
def startCommand (i : Instr) (s : State) : State :=
  { s with blk := log (.cmdStart (opcodeOf i)) s.blk, seq := [.code (codeOf i), .endCmd] }

/-- A word written with `HCMD` and left to run (R6): accepted and started, or refused (R98). -/
def writeCommand (w : CommandWord) (rest : List HostAction) (s : State) : State :=
  match decode w with
  | .ok i => startCommand i (accepted w i rest s)
  | .error _ => refusedWord rest s

/-- The boundary between commands (R262), and its services as the sequencer's position. -/
def betweenCommands (s : State) : State := { s with blk := (between s.blk).1, seq := (between s.blk).2 }

/-- A finished command with the boundary that follows it (R262). -/
def afterCommand (o : Host.Outcome State Fault Refusal) : Host.Outcome State Fault Refusal :=
  match o with
  | .next t => .next (betweenCommands t)
  | .fault f => .fault f
  | .refused r => .refused r

/-- A step in which the host does nothing and nothing runs: a boundary between commands (R262). -/
def idleStep (rest : List HostAction) (s : State) : State := betweenCommands { s with host := rest }

/-- A command runs: its end is still to come. At a position without `endCmd` only a service between commands runs (R262). -/
def commandRuns : List Frame → Bool
  | [] => false
  | .endCmd :: _ => true
  | _ :: k => commandRuns k

/-- One step of a running command or service (R6). -/
def sequencerStep (rest : List HostAction) (s : State) : State :=
  { s with host := rest, blk := (microStep s.blk s.seq).1, seq := (microStep s.blk s.seq).2 }

/-- A host that writes `HCMD` or `HBUF` while the sequencer is busy: `CommandOverlap` where a command runs (R42, R255, R284); where
only a service between commands does, the write waits for the service's end (R262; log entry 24). -/
def hostWrite (s : State) : State :=
  if commandRuns s.seq then { s with blk := raise .commandOverlap s.blk } else sequencerStep s.host s

/-- A step while a command or a service between commands runs: the host waits or lets it pass, and the sequencer goes on, or the
host writes. -/
def runningStep (s : State) : State :=
  match s.host with
  | [] => sequencerStep [] s
  | .wait :: rest => sequencerStep (.wait :: rest) s
  | .idle :: rest => sequencerStep rest s
  | .run _ :: _ => hostWrite s
  | .cmd _ :: _ => hostWrite s
  | .buf _ _ :: _ => hostWrite s

/-- The registers the host may read, by the access table of R43. R42 and R290 speak of the host reading `SESSION_PARAM` and other
registers of the session and the engine too; the model follows R43 and leaves them out (log entry 36). -/
structure HostView where
  resStatus : Byte
  resReply : BitVec 4
  resPayload : Byte
  resParam : LinkPhyParam
  hbuf : Buf
  status : LinkPhyStatus
  resultValid : Bool
  result : LinkPhyStatus
  sirq : SinkIrqRec
  phase : Phase
  phy : PhyRegs
  deriving DecidableEq, Repr

/-- What the host reads, between commands only (R42, R43). -/
def hostView (s : State) : Option HostView :=
  if commandRuns s.seq then none
  else
    some
      { resStatus := s.blk.port.resStatus
        resReply := s.blk.port.resReply
        resPayload := s.blk.port.resPayload
        resParam := s.blk.port.resParam
        hbuf := s.blk.port.hbuf
        status := s.blk.train.status
        resultValid := s.blk.train.resultValid
        result := s.blk.train.result
        sirq := s.blk.sirq
        phase := s.blk.train.phase
        phy := s.blk.phy }

/-- The command word placed as the host's next action, with no command running, so that the next step accepts and runs it. -/
def placeCommand (w : CommandWord) (s : State) : State := { s with seq := [], host := .run w :: s.host }

end Sys2Proof.Machine
end

