-- ==== Sys2Proof/Machine/Step.lean ====
section
/-! DEFINITION. One step of the machine (spec/00_scope.md R6, R7; spec/60_exceptions.md R251, R255): a host command run whole, a
micro-step of a running command or service, another action of the host, or a boundary while the machine waits. -/

namespace Sys2Proof.Machine

/-- One step. A machine with a fault takes none (R255): it answers the fault. -/
def step (s : State) : Host.Outcome State Fault Refusal :=
  match s.blk.faults.first? with
  | some f => .fault f
  | none =>
    match s.seq with
    | _ :: _ => .next (runningStep s)
    | [] =>
      match s.host with
      | [] => .next (idleStep [] s)
      | .idle :: rest => .next (idleStep rest s)
      | .wait :: rest => .next { s with host := rest }
      | .buf i v :: rest => .next { s with host := rest, blk := writeHbuf i v s.blk }
      | .cmd w :: rest => .next (writeCommand w rest s)
      | .run w :: rest =>
        match decode w with
        | .ok i => afterCommand (exec i (accepted w i rest s))
        | .error _ => .next (refusedWord rest s)

/-- The state with a table row's instruction placed where `step` takes its next one. -/
def State.withFetchWord (s : State) (nbits w : Nat) : State := placeCommand (tableWord nbits w) s

end Sys2Proof.Machine
end

