-- ==== Sys2Proof/Safety.lean ====
section
/-! DEFINITION. What claims are stated in: the invariants of the block (spec/20_memory.md R66; spec/30_encoding.md R83, R87;
spec/42_link_training.md R199, R201, R221, R225; spec/60_exceptions.md R272), what no step takes back (spec/10_state.md R31, R39,
R40), which registers two states agree on, and the conditions under which the oracle agents' answers are known. -/

namespace Sys2Proof.Machine

/-! ### The single outstanding transaction (R21, R66, R284) -/

/-- The engine's state after one more event, where the event is allowed: an issue only when no transaction is in flight, an
answer only when one is (R66). -/
def auxEvent (f : AuxFsm) (e : Event) : Option AuxFsm :=
  match e, f with
  | .auxIssue _ _ _, .idle => some .wait
  | .auxIssue _ _ _, .wait => none
  | .auxReply _ _, .wait => some .idle
  | .auxReply _ _, .idle => none
  | .auxTimeout, .wait => some .idle
  | .auxTimeout, .idle => none
  | _, _ => some f

/-- The engine's state after the events from `f` on; none where two transactions overlap or an answer has no request. -/
def auxTrace (f : AuxFsm) : List Event → Option AuxFsm
  | [] => some f
  | e :: es =>
    match auxEvent f e with
    | some f' => auxTrace f' es
    | none => none

/-- Every issued request was answered before the next was issued, and `AUX_FSM` says whether one is open (R21, R66). -/
abbrev SingleOutstanding (b : Block) : Prop := auxTrace .idle b.hist = some b.aux.fsm

/-! ### The request register (R82, R83, R84, R87) -/

/-- The request register holds a request of the block: its word is formed from its fields and some address, its size is at most
16, and address-only means size 0 (R83, R84). -/
def ReqReg.Legal (r : ReqReg) : Prop :=
  r.size ≤ 16 ∧ r.addrOnly = (r.size == 0) ∧ ∃ addr : BitVec 20, r.word = cmdOf r.isI2c r.isMot r.rw ++ addr ++ lenOf r.size

/-- A request in flight is legal, native without MOT or i2c (R82, R87). -/
def RequestLegal (b : Block) : Prop :=
  b.aux.fsm = .wait → b.aux.req.Legal ∧ (b.aux.req.isI2c = false → b.aux.req.isMot = false ∧ b.aux.req.rw ≠ .wsu)

/-! ### The transmitter (R199, R201, R220, R221, R225, R272) -/

/-- The transmitter is enabled for no lane or for a whole lane count (R100, R199, R201, R221), the block never enables video
(R220, R225) and never powers a lane up (R272). -/
def TransmitterSafe (p : PhyRegs) : Prop :=
  (p.xmitMask = .unknown ∨ p.xmitMask = .known 0 ∨ ∃ n, p.xmitMask = .known (laneMask n)) ∧
    p.video ≠ .known true ∧ ∀ i : Lane, p.power[i] ≠ .on

/-- The reference sink's bytes, where there is one, are in canonical form. -/
def SinkWf (e : Env) : Prop := ∀ k, e.sink = some k → memWf k.mem = true

/-- The invariant that every step keeps. -/
structure Block.Inv (b : Block) : Prop where
  single : SingleOutstanding b
  request : RequestLegal b
  transmitter : TransmitterSafe b.phy
  sink : SinkWf b.env
  completion : b.aux.completion = false

/-- The invariant of the machine. -/
def State.Inv (s : State) : Prop := s.blk.Inv

/-! ### The invariants that every command keeps -/

/-- A valid session result belongs to the phase `DONE` and is the status (R221, R225, R192). -/
abbrev ResultInv (b : Block) : Prop :=
  b.train.resultValid = true → b.train.phase = .done ∧ b.train.result = b.train.status

/-- Before the configuration is locked no session has started (R31, R190, R192): only `TRAIN.DONE 0` may have run. -/
abbrev LockInv (b : Block) : Prop :=
  b.store.configLocked = false → b.train.phase = .idle ∨ b.train.phase = .failed

/-- The command leaves no transaction in flight and no service running (R251, R262). -/
abbrev AtRest (b : Block) : Prop := b.aux.fsm = .idle ∧ b.svc.active = false

/-! ### What no step takes back -/

/-- Every mark of `a` is set in `b` (R39). -/
def FaultSet.Subset (a b : FaultSet) : Prop :=
  (a.sequenceViolation = true → b.sequenceViolation = true) ∧
    (a.configWriteAfterUse = true → b.configWriteAfterUse = true) ∧
    (a.overlappingTransfer = true → b.overlappingTransfer = true) ∧
    (a.commandOverlap = true → b.commandOverlap = true) ∧
    (a.unwrittenRead = true → b.unwrittenRead = true)

/-- What no step takes back: the history (R40), the faults and the refusal mark (R39), the configuration lock (R31), and which
bytes the host has written. -/
structure Block.Grows (a b : Block) : Prop where
  hist : a.hist <+: b.hist
  faults : a.faults.Subset b.faults
  refused : a.refused = true → b.refused = true
  locked : a.store.configLocked = true → b.store.configLocked = true
  written : ∀ i : Fin 16, a.port.hbufWritten[i] = true → b.port.hbufWritten[i] = true

/-! ### Frames -/

/-- The registers a sink service may write are left out; every other register, mark and local agrees (R262, R288). -/
structure SameButService (a b : Block) : Prop where
  port : b.port = a.port
  store : b.store = a.store
  train : b.train = a.train
  phy : b.phy = a.phy
  faults : b.faults = a.faults
  refused : b.refused = a.refused
  loc : b.loc = a.loc

/-- The host's part of the block and the parameter store agree, but for `RES_STATUS`; no mark is set (R44). -/
structure SameHostSide (a b : Block) : Prop where
  hcmd : b.port.hcmd = a.port.hcmd
  hbuf : b.port.hbuf = a.port.hbuf
  hbufWritten : b.port.hbufWritten = a.port.hbufWritten
  resReply : b.port.resReply = a.port.resReply
  resPayload : b.port.resPayload = a.port.resPayload
  resParam : b.port.resParam = a.port.resParam
  faults : b.faults = a.faults
  refused : b.refused = a.refused

/-! ### When the oracle agents' answers are known -/

/-- No sink service comes between: none is pending, and the source requests none (R262). -/
abbrev Quiet (b : Block) : Prop := b.svc.pending = false ∧ b.env.irq = [] ∧ b.env.irqQuiet = true

/-- The PHY answers `Ok` to every command (R37). -/
abbrev PhyOk (b : Block) : Prop := b.env.phy = [] ∧ b.env.phyReady = true

/-- The sink-IRQ source requests service only finitely often at each boundary to come: the fairness that R263 asks of a claim that a
command ends. -/
structure FairSource (e : Env) : Prop where
  scripted : ∀ d ∈ e.irq, d.serve ≠ .endless
  free : e.irqQuiet = false → ∀ n, e.irqCount ≤ n → (Config.boundary n).serve ≠ .endless

/-- An ACK with nothing wrong and this many bytes (R88, R89, R91). -/
def ackStatus (bytesRead : Byte) : ReplyStatus where
  replyType := 0
  bytesRead := bytesRead
  auxM := 0
  replyReceived := true
  errStatus := 0
  errCode := 0

/-- The answer to a write that was accepted whole (R89, R131). -/
def ackWrite (rdata : Buf) : AuxAnswer := .reply (ackStatus 1) rdata

/-- The answer to a read of `n` bytes (R89, R131). -/
def ackRead (n : Byte) (rdata : Buf) : AuxAnswer := .reply (ackStatus (n + 1)) rdata

/-- A reply with nothing wrong that defers (R88, R149). -/
def Defers (x : AuxAnswer) : Prop :=
  ∃ r d, x = .reply r d ∧ r.errStatus = 0 ∧ r.replyReceived = true ∧ (r.replyType = 0x2 ∨ r.replyType = 0x8)

/-- A reply with nothing wrong that acknowledges the whole access (R89, R131, R149). -/
def WholeAck (a : Access) (x : AuxAnswer) : Prop :=
  ∃ r d, x = .reply r d ∧ r.errStatus = 0 ∧ r.replyReceived = true ∧ r.replyType = 0x0 ∧
    (if a.isWrite then r.bytesRead = 1 ∨ r.auxM = a.size else r.bytesRead = a.size + 1)

/-- A successful read of `FEC_STATUS` with the FEC-decode-detected bit set (R105, R222). -/
def FecSeen (x : AuxAnswer) : Prop := WholeAck .fecStatus x ∧ ∃ r d, x = .reply r d ∧ d[0].getLsbD 0 = true

/-! ### The AUX commands as requests -/

/-- The request an AUX command makes (R138 to R146); none for another command. -/
def auxRequestOf : Instr → Option Request
  | .auxNr addr size => some ⟨false, false, 0, addr, size⟩
  | .auxNw addr size => some ⟨false, false, 1, addr, size⟩
  | .auxI2cr addr size => some ⟨true, false, 0, addr, size⟩
  | .auxI2crMot addr size => some ⟨true, true, 0, addr, size⟩
  | .auxI2cw addr size => some ⟨true, false, 1, addr, size⟩
  | .auxI2cwMot addr size => some ⟨true, true, 1, addr, size⟩
  | .auxI2cwsu addr size => some ⟨true, false, 2, addr, size⟩
  | .auxI2cwsuMot addr size => some ⟨true, true, 2, addr, size⟩
  | .auxTransfer isI2c isMot rw size addr => some ⟨isI2c, isMot, rw, addr, size⟩
  | _ => none

/-- The accepted request shapes, as the table of R147 lists them. -/
def acceptedShape (q : Request) : Bool :=
  match q.isI2c, q.isMot, q.rw with
  | false, false, 0#2 => decide (1 ≤ q.size ∧ q.size ≤ 16)
  | false, false, 1#2 => decide (1 ≤ q.size ∧ q.size ≤ 16)
  | true, false, 0#2 => decide (q.size = 0)
  | true, false, 1#2 => decide (q.size = 0)
  | true, false, 2#2 => decide (q.size = 0)
  | true, true, 0#2 => decide (q.size ≤ 16)
  | true, true, 1#2 => decide (q.size ≤ 16)
  | true, true, 2#2 => decide (q.size = 0)
  | _, _, _ => false

/-- Whether the request is a write (R94). -/
def Request.isWrite (q : Request) : Prop := q.rw = 1

/-- The event an answer leaves in the history (R128). -/
def answerEvent : AuxAnswer → Event
  | .reply r rdata => .auxReply r rdata
  | .timedOut => .auxTimeout

/-! ### The host command words of spec/opcode_table.json -/

/-- The mask and the match of each `HOST_CMD` row of spec/opcode_table.json. -/
def hostRows : List (BitVec 64 × BitVec 64) :=
  [(0xFFFFFF00000000FF, 0x01), (0xFFFFFFFFFFFFFFFF, 0x02), (0xFFFFFFFFFFFFFFFF, 0x03), (0xFFFFFFFFFFFFFFFF, 0x04),
   (0xFFFFFFFFFFFFFFFF, 0x05), (0xFFFFFFFFFFFFFEFF, 0x06), (0xFFFFFFFFFFFFFFFF, 0x10), (0xFFFFFFFFFFFFFFFF, 0x11),
   (0xFFFFFFFFFF0000FF, 0x12), (0xFF000000000000FF, 0x13), (0xFFFFFFFFFFFFFFFF, 0x20)]

/-! ### The phases of the training commands (R190, R172) -/

/-- The instruction is a training command (R190). -/
def isTraining : Instr → Bool
  | .trainStart => true
  | .trainInit => true
  | .trainCr => true
  | .trainEq => true
  | .trainDone _ => true
  | _ => false

/-- The training commands legal in each phase, as the table of R190 lists them. -/
def legalTraining : Phase → List Instr
  | .idle => [.trainStart, .trainInit, .trainDone false]
  | .initOk => [.trainCr, .trainDone false]
  | .retryPending => [.trainCr, .trainDone false]
  | .crOk => [.trainEq, .trainDone false]
  | .eqOk => [.trainDone false, .trainDone true]
  | .failedPending => [.trainDone false]
  | .done => [.trainStart, .trainInit, .trainDone false]
  | .failed => [.trainStart, .trainInit, .trainDone false]

/-! ### The commands of the parameter store, as their rules list them -/

/-- `DEFAULT_PARAM` after `PARAM.SET field, value`, by the cases of R173 and the legal values of R174; none for an illegal pair. -/
def paramSetResult (field value : Byte) (p : LinkPhyParam) : Option LinkPhyParam :=
  if field = 0 ∧ value ≤ 3 then some { p with initRate := value.extractLsb' 0 2 }
  else if field = 1 ∧ value = 1 then some { p with initLanes := .one }
  else if field = 1 ∧ value = 2 then some { p with initLanes := .two }
  else if field = 1 ∧ value = 4 then some { p with initLanes := .four }
  else if 2 ≤ field ∧ field ≤ 5 ∧ value ≤ 3 then
    some { p with
      initSwing := Vector.ofFn fun i : Lane => if i.val + 2 = field.toNat then value.extractLsb' 0 2 else p.initSwing[i] }
  else if 6 ≤ field ∧ field ≤ 9 ∧ value ≤ 3 then
    some { p with
      initPreemp := Vector.ofFn fun i : Lane => if i.val + 6 = field.toNat then value.extractLsb' 0 2 else p.initPreemp[i] }
  else if field = 10 ∧ value ≤ 1 then some { p with fecEn := decide (value = 1) }
  else if field = 11 ∧ value ≤ 1 then some { p with sscEn := decide (value = 1) }
  else if field = 12 ∧ value ≤ 1 then some { p with enhanceFrameEn := decide (value = 1) }
  else if field = 13 ∧ value = 2 then some { p with eqTps := .tps2 }
  else if field = 13 ∧ value = 3 then some { p with eqTps := .tps3 }
  else if field = 13 ∧ value = 4 then some { p with eqTps := .tps4 }
  else none

/-! ### Link status -/

/-- Clock recovery is done on lane `i`: bit 0 of its nibble (R103). -/
def laneCr (l : Vector Byte 6) (i : Lane) : Bool := (l[i.val / 2]'(by omega)).getLsbD (4 * (i.val % 2))

/-- Channel equalization is done on lane `i`: bit 1 of its nibble (R103). -/
def laneEq (l : Vector Byte 6) (i : Lane) : Bool := (l[i.val / 2]'(by omega)).getLsbD (4 * (i.val % 2) + 1)

/-- The sink asks for swing level `s` and pre-emphasis level `p` on lane `i` (R104). -/
abbrev laneAsks (l : Vector Byte 6) (i : Lane) (s p : BitVec 2) : Prop :=
  s = (l[4 + i.val / 2]'(by omega)).extractLsb' (4 * (i.val % 2)) 2 ∧
    p = (l[4 + i.val / 2]'(by omega)).extractLsb' (4 * (i.val % 2) + 2) 2

/-- The first six bytes of a reply's data. -/
def sixBytes (d : Buf) : Vector Byte 6 := Vector.ofFn fun i => d[i.val]'(by omega)

/-! ### Counting events -/

/-- The event is an AUX issue. -/
def Event.isIssue : Event → Bool
  | .auxIssue _ _ _ => true
  | _ => false

/-- The event is the end of an AUX transaction. -/
def Event.isAnswer : Event → Bool
  | .auxReply _ _ => true
  | .auxTimeout => true
  | _ => false

/-- The event is `set_lane_count_link_rate`, which begins every clock-recovery phase (R201). -/
def Event.isRateSet : Event → Bool
  | .hwOp (.setLaneCountLinkRate _ _) _ => true
  | _ => false

/-- The event is something that happens at the block's ports, or the start or end of a command: no log entry (R270). -/
def Event.isStep : Event → Bool
  | .log _ => false
  | _ => true

/-- The rungs of the ladder from an initial lane count at a rate (R217). -/
def rungBound (n : LaneCount) (rate : BitVec 2) : Nat :=
  (match n with
    | .four => 3
    | .two => 2
    | .one => 1) * (rate.toNat + 1)

/-! ### The issues of an iteration (R202, R204) -/

/-- The 2-byte write at 0x00100. -/
def linkConfigIssue (p : LinkPhyParam) (st : LinkPhyStatus) : Event :=
  .auxIssue 0x80010001 false [bwCode st.curRate, laneCountSet st.curLanes p.enhanceFrameEn]

/-- The 5-byte burst at 0x00102 with a pattern's byte. -/
def burstIssue (pattern : Byte) (st : LinkPhyStatus) : Event :=
  .auxIssue 0x80010204 false
    [pattern, laneSet st.swing[0] st.preemp[0], laneSet st.swing[1] st.preemp[1], laneSet st.swing[2] st.preemp[2],
      laneSet st.swing[3] st.preemp[3]]

/-- The 6-byte read at 0x00202. -/
def statusReadIssue : Event := .auxIssue 0x90020205 false []

/-! ### The events of the training steps, in the order their rules list them (R14, R68) -/

/-- `ProgramDrive()` (R178): for each active lane, in increasing order, the log of a sum above 3 and the PHY command. -/
def driveEvents (table : ParamStore) (st : LinkPhyStatus) : List Event :=
  ([0, 1, 2, 3] : List Lane).flatMap fun i =>
    if i.val < st.curLanes.toNat then
      (if 3 < st.swing[i].toNat + st.preemp[i].toNat then [.log (.driveSum i st.swing[i] st.preemp[i])] else []) ++
        [.hwOp (.setVswingPreemp i
          ⟨st.swing[i], st.preemp[i], sigLookup table st.curRate st.swing[i] st.preemp[i]⟩) false]
    else []

/-- Steps 1 to 3 of an iteration with pattern `x`, whose byte is `patternByte`: the pattern set, the delay, the status read (R202 to
R204, R211), with the three answers. -/
def iterationEvents (table : ParamStore) (p : LinkPhyParam) (st : LinkPhyStatus) (x : Pattern) (patternByte : Byte)
    (wait : DelayLabel) (a1 a2 a3 : AuxAnswer) : List Event :=
  driveEvents table st ++
    [.hwOp (.setPattern x) false, linkConfigIssue p st, answerEvent a1, burstIssue patternByte st, answerEvent a2, .delay wait,
      statusReadIssue, answerEvent a3]

/-- The entry of a clock-recovery phase (R201). -/
def crEntryEvents (st : LinkPhyStatus) : List Event :=
  [.hwOp (.setLaneCountLinkRate st.curLanes st.curRate) false, .hwOp (.enableXmit (laneMask st.curLanes)) false]

/-- The teardown (R220), with the answer to its write. -/
def teardownEvents (a : AuxAnswer) : List Event :=
  [.hwOp (.setPattern .none) false, .auxIssue 0x80010200 false [0x00], answerEvent a, .hwOp (.videoEnable false) false]

/-- One attempt at enabling FEC (R222), with the answer to its status read. -/
def fecAttemptEvents (a : AuxAnswer) : List Event :=
  [.hwOp (.enableFec true) false, .delay .fecWait, .auxIssue 0x90028000 false [], answerEvent a]

/-! ### The parser's reads and its record (R240 to R245) -/

/-- The reads after the vector's, from the vector, `TEST_REQUEST` and `PHY_TEST_PATTERN` (R242 to R244). -/
def parserReads (v t p : Byte) : List Access :=
  if v.getLsbD 1 then
    .testRequest ::
      ((if t.getLsbD 0 then [.testLinkRate, .testLaneCount] else []) ++
        (if t.getLsbD 3 then .phyTestPattern :: ((if p = 0x04 then [.customPattern] else []) ++ [.adjustRequest]) else []))
  else []

/-- The issue of a checked read. -/
def readIssue (a : Access) : Event := .auxIssue (0x9#4 ++ a.addr ++ (a.size - 1)) false []

/-- `SIRQ` after a run in which the reads `tried` were made and those of `done` succeeded, each with the bytes `d` gives it (R240,
R242 to R245): a test is marked before its first read, and what was not read stays 0. -/
def parserRecord (d : Access → Buf) (tried done : List Access) : SinkIrqRec where
  valid := true
  raw := (d .irqVector)[0]
  testTraining := decide (.testLinkRate ∈ tried)
  testLanes := if .testLaneCount ∈ done then (d .testLaneCount)[0] &&& 0x1F else 0
  testRate := if .testLinkRate ∈ done then (d .testLinkRate)[0] else 0
  testPhy := decide (.phyTestPattern ∈ tried)
  testPattern := if .phyTestPattern ∈ done then (d .phyTestPattern)[0] else 0
  customValid := decide (.customPattern ∈ done)
  custom := Vector.ofFn fun k => if .customPattern ∈ done then (d .customPattern)[k.val]'(by omega) else 0
  adjSwing := Vector.ofFn fun i =>
    if .adjustRequest ∈ done then ((d .adjustRequest)[i.val / 2]'(by omega)).extractLsb' (4 * (i.val % 2)) 2 else 0
  adjPreemp := Vector.ofFn fun i =>
    if .adjustRequest ∈ done then ((d .adjustRequest)[i.val / 2]'(by omega)).extractLsb' (4 * (i.val % 2) + 2) 2 else 0
  cpIrq := (d .irqVector)[0].getLsbD 2

/-! ### The end of a session -/

/-- The `Fatal` end state of the block (R273). -/
def FatalEnd (b : Block) : Prop :=
  b.train.phase = .failed ∧ b.phy.xmitMask = .known 0 ∧ (∀ i : Lane, b.phy.power[i] = .powerDown) ∧
    b.phy.video = .known false ∧ b.phy.pattern = .known .none ∧ b.train.resultValid = false

/-- The end state of a successful session (R224, R225). -/
def SuccessEnd (b : Block) : Prop :=
  b.train.phase = .done ∧ b.train.resultValid = true ∧ b.train.result = b.train.status ∧
    b.train.status.mbps = mbpsOf b.train.status.curRate ∧ b.train.status.khz = khzOf b.train.status.curRate ∧
    b.phy.pattern = .known .none ∧ b.phy.video = .known false

/-! ### One micro-step after another -/

/-- `n` micro-steps of a running command (R6). -/
def microRun : Nat → Block × List Frame → Block × List Frame
  | 0, p => p
  | n + 1, p => microRun n (microStep p.1 p.2)

end Sys2Proof.Machine
end

