-- ==== Sys2Proof/Certificates/Slice0/Obligations.lean ====
section
/-! DEFINITION. The statements about the block, from the numbered rules of spec/. -/

open Sys2Proof Sys2Proof.Machine

/-! ### Encoding and decoding -/

/-- Decoding the encoding of a well-formed instruction gives it back, for every instruction and every operand value
(R80 to R84, R92 to R98). -/
def Obligations.DecodeEncode : Prop :=
  ∀ i : Instr, WellFormed i = true → decode (encode i) = .ok i

/-- Every word that decodes is the encoding of the instruction it decodes to, which is well-formed: a word has one spelling (from
R81, R83, R84, R93, R98). That a request word with `LEN[7:4]` not 0, or with the address-only flag and `LEN` not 0, is refused by
the decoder is the model's choice (log entry 13). -/
def Obligations.EncodeDecode : Prop :=
  ∀ (w : CommandWord) (i : Instr), decode w = .ok i → encode i = w ∧ WellFormed i = true

/-- R98: a host word spells a command exactly when it matches a row of spec/opcode_table.json (its opcode is assigned and its
must-be-zero bits are 0); a word that spells none sets `REFUSED` and changes nothing else, whether the host waits for the command
or goes on. -/
def Obligations.HostWordsRefused : Prop :=
  (∀ w : BitVec 64, (∃ i, decode (.host w) = .ok i) ↔ ∃ row ∈ hostRows, w &&& row.1 = row.2) ∧
    ∀ (w : BitVec 64) (e : Reject) (rest : List HostAction) (s : State),
      decode (.host w) = .error e → s.blk.faults.first? = none → s.seq = [] →
        s.host = .run (.host w) :: rest ∨ s.host = .cmd (.host w) :: rest →
        step s = .next { s with host := rest, blk := { s.blk with refused := true } }

/-- A request word with a reserved `CMD` is refused, and the formatter never forms one, nor a word with `LEN[7:4] ≠ 0` (from R82,
R83, R87). -/
def Obligations.ReservedRequests : Prop :=
  (∀ (w : BitVec 32) (addrOnly : Bool), w.extractLsb' 28 4 ∈ ([0x3, 0x7, 0xA, 0xB, 0xC, 0xD, 0xE, 0xF] : List (BitVec 4)) →
      ∃ e, decode (.req w addrOnly) = .error e) ∧
    ∀ (q : Request) (rw : Rw), validRw q = some rw →
      (format q rw).word.extractLsb' 28 4 ∈ ([0x0, 0x1, 0x2, 0x4, 0x5, 0x6, 0x8, 0x9] : List (BitVec 4)) ∧
        (format q rw).word.extractLsb' 4 4 = 0#4

/-- The formatter forms, for each AUX kind whose request is valid, the very word and address-only flag of its row (R81 to R84,
R126, R138 to R145). -/
def Obligations.RequestWordIsEncoding : Prop :=
  ∀ (i : Instr) (q : Request) (rw : Rw), (∀ a b c d e, i ≠ .auxTransfer a b c d e) → auxRequestOf i = some q →
    validRw q = some rw → CommandWord.req (format q rw).word (format q rw).addrOnly = encode i

/-- Every AUX kind assembles to the `AUX_TRANSFER` word with the fields of its row, and runs as that command (R107, R109, R146).
-/
def Obligations.AuxKindIsTransfer : Prop :=
  ∀ (i : Instr) (q : Request), auxRequestOf i = some q →
    decode (.host (assemble i)) = .ok (.auxTransfer q.isI2c q.isMot q.rw q.size q.addr) ∧
      ∀ s, exec i s = exec (.auxTransfer q.isI2c q.isMot q.rw q.size q.addr) s

/-- Words written out from the spec's encodings decode to the instructions they stand for, one per family at least. -/
def Obligations.WordsOfTheSpec : Prop :=
  decode (.req 0x90020205 false) = .ok (.auxNr 0x00202 6) ∧
    decode (.req 0x80010204 false) = .ok (.auxNw 0x00102 5) ∧
    decode (.req 0x10005000 true) = .ok (.auxI2cr 0x00050 0) ∧
    decode (.req 0x40005000 false) = .ok (.auxI2cwMot 0x00050 1) ∧
    decode (.host 0x0000000000011001) = .ok (.auxTransfer false false 0 17 0x00000) ∧
    decode (.host 0x0000000000000006) = .ok (.trainDone false) ∧
    decode (.host 0x0000000000030D12) = .ok (.paramSet 13 3) ∧
    decode (.host 0x00002A0000000213) = .ok (.sigtabSet 2 0 0 0x00 0x2A 0x00) ∧
    decode (.host 0x0000000000000020) = .ok .sinkIrq ∧
    decode (.host 0x0000000000000206) = .error .mustBeZero

/-- R99 to R102: the link-rate codes, Mbps and kHz, with the fallback by decreasing index; the lane masks, the active lanes, the
lane count byte and the next lane count; the pattern bytes; and the lane byte from its levels. -/
def Obligations.PatternAndLaneBytes : Prop :=
  ([0, 1, 2, 3].map fun i : BitVec 2 => (bwCode i, mbpsOf i, khzOf i)) =
      [(0x06, 1620, 162000), (0x0A, 2700, 270000), (0x14, 5400, 540000), (0x1E, 8100, 810000)] ∧
    (∀ t : TrainRegs, t.status.curRate ≠ 0 → (fallback t).1.status.curRate = t.status.curRate - 1) ∧
    ([LaneCount.one, .two, .four].map fun n => (n.toNat, laneMask n, nextLanes n)) =
      [(1, 0x1, none), (2, 0x3, some .one), (4, 0xF, some .two)] ∧
    (∀ (n : LaneCount) (i : Lane), laneActive n i = true ↔ i.val < n.toNat) ∧
    (∀ (n : LaneCount) (ef : Bool),
      laneCountSet n ef = BitVec.ofNat 8 n.toNat ||| ((if ef then 1#8 else 0#8) <<< 7)) ∧
    ([Pattern.none, .tps1, .tps2, .tps3, .tps4].map patByte) = [0x00, 0x21, 0x22, 0x23, 0x07] ∧
    ∀ s p : BitVec 2,
      laneSet s p =
        s.setWidth 8 ||| ((if s = 3 then 1#8 else 0#8) <<< 2) ||| (p.setWidth 8 <<< 3) ||| ((if p = 3 then 1#8 else 0#8) <<< 5)

/-- R103: `CR_OK` and `EQ_OK` look at the status bits of exactly the active lanes. -/
def Obligations.LinkStatusPredicates : Prop :=
  ∀ (l : Vector Byte 6) (n : LaneCount),
    (crOk l n = true ↔ ∀ i : Lane, i.val < n.toNat → laneCr l i = true) ∧
      (eqOk l n = true ↔ ∀ i : Lane, i.val < n.toNat → laneCr l i = true ∧ laneEq l i = true)

/-- The wire form of a request has the length of R86, 3 to 20 bytes, and starts with the bytes of its word (R85). -/
def Obligations.WireForm : Prop :=
  ∀ (r : ReqReg) (wdata : Buf), r.Legal →
    (wireBytes r wdata).length = wireLength r ∧ 3 ≤ wireLength r ∧ wireLength r ≤ 20 ∧
      (wireBytes r wdata).take 3 = [r.word.extractLsb' 24 8, r.word.extractLsb' 16 8, r.word.extractLsb' 8 8] ∧
      (r.addrOnly = false → (wireBytes r wdata)[3]? = some (r.word.extractLsb' 0 8)) ∧
      (r.rw = .write → ∀ k : Fin 16, k.val < r.size.toNat → (wireBytes r wdata)[4 + k.val]? = some wdata[k])

/-! ### The AUX engine -/

/-- A request that fails one of the checks ends with `InvalidArgument` and payload 0, and nothing else changes: no I/O, no write
of a register of the engine, `RES_REPLY` as it was (from R120 to R125, R134, R250, R251). That `REQ` stays as it was is what the
model reads in R22, R120 and R125, against the words of R257 (log entry 34). -/
def Obligations.RejectedRequests : Prop :=
  ∀ (i : Instr) (q : Request) (s : State), auxRequestOf i = some q →
    (q.rw = 3 ∨ 16#8 < q.size ∨ (q.isI2c = false ∧ q.isMot = true) ∨ (q.isI2c = false ∧ q.size = 0) ∨
      ((q.rw = 2 ∨ (q.isI2c = true ∧ q.isMot = false)) ∧ 0#8 < q.size)) →
    ∃ b, exec i s = .next { s with blk := b } ∧
      b = { s.blk with
        port := { s.blk.port with resStatus := 1, resPayload := 0 }
        train := { s.blk.train with micro := none }
        hist := s.blk.hist ++ [.cmdStart 0x01, .cmdEnd .invalidArgument]
        loc := { s.blk.loc with ret := .invalidArgument } }

/-- A request passes validation exactly when the table of accepted shapes lists it (from R121 to R125; R147 gathers them). -/
def Obligations.AcceptedShapes : Prop :=
  ∀ q : Request, (validRw q).isSome = acceptedShape q

/-- An accepted transfer runs: with a known answer and no service between, every AUX command answers the next state in which the
engine is idle again, `REQ` and `WDATA` hold what was sent, the result registers hold the result of the transfer, a read has
stored its payload, and the history holds the issue, the answer and, where the final reply type is not ACK by a classified reply
or by the wait's expiry, the log (R126 to R136, R138 to R146). -/
def Obligations.TransferCompletes : Prop :=
  ∀ (i : Instr) (q : Request) (rw : Rw) (a : AuxAnswer) (rest : List AuxAnswer) (s : State),
    auxRequestOf i = some q → acceptedShape q = true → rwOf q.rw = some rw → s.blk.aux.fsm = .idle → Quiet s.blk →
    s.blk.env.aux = a :: rest →
    (rw = .write → ∀ k : Fin 16, k.val < q.size.toNat → s.blk.port.hbufWritten[k] = true) →
    let x := xferResult (format q rw) a
    ∃ b, exec i s = .next { s with blk := b } ∧
      b.aux.fsm = .idle ∧ b.aux.completion = false ∧ b.aux.req = format q rw ∧
      (∀ k : Fin 16, b.aux.wdata[k] = if rw = .write ∧ k.val < q.size.toNat then s.blk.port.hbuf[k] else s.blk.aux.wdata[k]) ∧
      (∀ k : Fin 16, b.port.hbuf[k] = (x.data[k.val]?).getD s.blk.port.hbuf[k]) ∧
      b.port.resStatus = x.status.code ∧ b.port.resReply = x.reply ∧ b.port.resPayload = x.payload ∧
      (b.port.hcmd = s.blk.port.hcmd ∧ b.port.hbufWritten = s.blk.port.hbufWritten ∧ b.port.resParam = s.blk.port.resParam) ∧
      (match a with
        | .reply r d => b.aux.reply = r ∧ b.aux.rdata = d ∧ b.aux.replyValid = true
        | .timedOut => b.aux.reply = s.blk.aux.reply ∧ b.aux.rdata = s.blk.aux.rdata ∧ b.aux.replyValid = false) ∧
      b.ibuf = s.blk.ibuf ∧ b.store = s.blk.store ∧ b.train = { s.blk.train with micro := none } ∧ b.phy = s.blk.phy ∧
      b.sirq = s.blk.sirq ∧ b.svc = s.blk.svc ∧ b.faults = s.blk.faults ∧ b.refused = s.blk.refused ∧
      b.hist = s.blk.hist ++
        ([.cmdStart 0x01, .auxIssue (format q rw).word (format q rw).addrOnly (sentBytes rw q.size s.blk.port.hbuf),
          answerEvent a] ++
        (if x.reply ≠ 0x0 ∧ (x.status = .ok ∨ x.status = .timeout) then
          [.log (.nonAck b.aux.req b.aux.reply b.aux.replyValid)] else []) ++ [.cmdEnd x.status])

/-- R129: a transfer whose wait expires ends with `Timeout`, the synthesized reply type and payload 0; the buffer and `REPLY` are
not written. -/
def Obligations.TimeoutResult : Prop :=
  ∀ (i : Instr) (q : Request) (rw : Rw) (rest : List AuxAnswer) (s : State),
    auxRequestOf i = some q → validRw q = some rw → s.blk.aux.fsm = .idle → Quiet s.blk → s.blk.env.aux = .timedOut :: rest →
    (rw = .write → ∀ k : Fin 16, k.val < q.size.toNat → s.blk.port.hbufWritten[k] = true) →
    ∃ b, exec i s = .next { s with blk := b } ∧ b.port.resStatus = 2 ∧ b.port.resReply = (if q.isI2c then 0x8 else 0x2) ∧
      b.port.resPayload = 0 ∧ b.port.hbuf = s.blk.port.hbuf ∧ b.aux.reply = s.blk.aux.reply

/-- R130, R131, R132: what the reply gives: an error flag or no reply is a `ProtocolError`, whatever the type; then the table of
payloads by type and direction; then a payload above the size is a `ProtocolError`; the reply type is as received, and the bytes
handed back are those of a read that passed, `payload` of them. -/
def Obligations.ReplyResults : Prop :=
  ∀ (q : ReqReg) (r : ReplyStatus) (d : Buf),
    let payload : Option Byte :=
      if r.replyType = 0x0 then
        (if q.rw = .read then some (r.bytesRead - 1) else if r.bytesRead = 1 then some q.size else some r.auxM)
      else if r.replyType = 0x1 ∨ r.replyType = 0x4 then
        (if q.rw = .read then some 0 else if r.bytesRead = 1 then some 0 else some r.auxM)
      else if r.replyType = 0x2 ∨ r.replyType = 0x8 then some 0
      else none
    xferResult q (.reply r d) =
      if r.errStatus ≠ 0 ∨ r.replyReceived = false then ⟨.protocolError, r.replyType, 0, []⟩
      else match payload with
        | none => ⟨.protocolError, r.replyType, 0, []⟩
        | some p =>
          if p > q.size then ⟨.protocolError, r.replyType, 0, []⟩
          else ⟨.ok, r.replyType, p, if q.rw = .read then d.toList.take p.toNat else []⟩

/-- A write that would read a byte of `HBUF` the host has not written is the fault `UnwrittenRead`, and an issue while a
transaction is in flight the fault `OverlappingTransfer`: beyond the accepted command's `CmdStart`, the mark is all that changes
(R127, R255). -/
def Obligations.TransferFaults : Prop :=
  ∀ (i : Instr) (q : Request) (rw : Rw) (s : State), auxRequestOf i = some q → validRw q = some rw →
    ((rw = .write ∧ ∃ k : Fin 16, k.val < q.size.toNat ∧ s.blk.port.hbufWritten[k] = false) →
      exec i s = .next { s with blk := { s.blk with
        faults := { s.blk.faults with unwrittenRead := true }, hist := s.blk.hist ++ [.cmdStart 0x01] } }) ∧
    (s.blk.aux.fsm = .wait → (rw = .write → ∀ k : Fin 16, k.val < q.size.toNat → s.blk.port.hbufWritten[k] = true) →
      exec i s = .next { s with blk := { s.blk with
        faults := { s.blk.faults with overlappingTransfer := true }, hist := s.blk.hist ++ [.cmdStart 0x01] } })

/-- A transfer that passes validation makes exactly one issue and takes exactly one answer, whatever the answer is (from R136). -/
def Obligations.TransferIo : Prop :=
  ∀ (i : Instr) (q : Request) (rw : Rw) (s : State), auxRequestOf i = some q → validRw q = some rw → s.blk.aux.fsm = .idle →
    Quiet s.blk → (rw = .write → ∀ k : Fin 16, k.val < q.size.toNat → s.blk.port.hbufWritten[k] = true) →
    ∃ b d, exec i s = .next { s with blk := b } ∧ b.hist = s.blk.hist ++ d ∧ d.countP Event.isIssue = 1 ∧
      d.countP Event.isAnswer = 1

/-- The frame of every AUX command, in every state and whatever the agents do: the training registers but the micro-step, the
parameter store, the PHY shadows, `HCMD`, `RES_PARAM` and the host's write marks are unchanged; and a command that is no read
leaves `HBUF` as it was (R28, R44, R146, R288). -/
def Obligations.TransferFrame : Prop :=
  ∀ (i : Instr) (q : Request) (s : State) (b : Block), auxRequestOf i = some q → exec i s = .next { s with blk := b } →
    b.train = { s.blk.train with micro := b.train.micro } ∧ b.store = s.blk.store ∧ b.phy = s.blk.phy ∧
      b.port.hcmd = s.blk.port.hcmd ∧ b.port.resParam = s.blk.port.resParam ∧ b.port.hbufWritten = s.blk.port.hbufWritten ∧
      (q.rw ≠ 0 → s.blk.aux.fsm = .idle → b.port.hbuf = s.blk.port.hbuf)

/-! ### The parameter store -/

/-- `PARAM.GET` gives the default parameters, in every phase; and `PARAM.SESSION` copies them to the session and gives them,
outside a session (from R171, R172). -/
def Obligations.ParamGetAndSession : Prop :=
  ∀ s : State,
    exec .paramGet s = .next { s with blk := { s.blk with
      port := { s.blk.port with resParam := s.blk.store.defaultParam, resStatus := 0 }
      train := { s.blk.train with micro := none }
      hist := s.blk.hist ++ [.cmdStart 0x10, .cmdEnd .ok]
      loc := { s.blk.loc with ret := .ok } } } ∧
    (s.blk.train.phase ∈ [Phase.idle, .done, .failed] →
      exec .paramSession s = .next { s with blk := { s.blk with
        port := { s.blk.port with resParam := s.blk.store.defaultParam, resStatus := 0 }
        train := { s.blk.train with sessionParam := s.blk.store.defaultParam, micro := none }
        hist := s.blk.hist ++ [.cmdStart 0x11, .cmdEnd .ok]
        loc := { s.blk.loc with ret := .ok } } })

/-- While the configuration is unlocked, `PARAM.SET` writes exactly the named field for a legal pair and ends with `OK`, and for
any other pair writes nothing and ends with `InvalidArgument` (from R173, R174). -/
def Obligations.ParamSet : Prop :=
  ∀ (field value : Byte) (s : State), s.blk.store.configLocked = false →
    (∀ p, paramSetResult field value s.blk.store.defaultParam = some p →
      exec (.paramSet field value) s = .next { s with blk := { s.blk with
        port := { s.blk.port with resStatus := 0 }
        store := { s.blk.store with defaultParam := p }
        train := { s.blk.train with micro := none }
        hist := s.blk.hist ++ [.cmdStart 0x12, .cmdEnd .ok]
        loc := { s.blk.loc with ret := .ok } } }) ∧
    (paramSetResult field value s.blk.store.defaultParam = none →
      exec (.paramSet field value) s = .next { s with blk := { s.blk with
        port := { s.blk.port with resStatus := 1 }
        train := { s.blk.train with micro := none }
        hist := s.blk.hist ++ [.cmdStart 0x12, .cmdEnd .invalidArgument]
        loc := { s.blk.loc with ret := .invalidArgument } } })

/-- While the configuration is unlocked, `SIGTAB.SET` replaces the entry its indices name and no other, and an index above 3 is an
`InvalidArgument` that writes nothing (from R175). -/
def Obligations.SigtabSet : Prop :=
  ∀ (rate swing preemp pre main post : Byte) (s : State), s.blk.store.configLocked = false →
    (rate ≤ 3 → swing ≤ 3 → preemp ≤ 3 →
      ∃ st, exec (.sigtabSet rate swing preemp pre main post) s = .next { s with blk := { s.blk with
          port := { s.blk.port with resStatus := 0 }
          store := st
          train := { s.blk.train with micro := none }
          hist := s.blk.hist ++ [.cmdStart 0x13, .cmdEnd .ok]
          loc := { s.blk.loc with ret := .ok } } } ∧
        st.defaultParam = s.blk.store.defaultParam ∧ st.configLocked = false ∧
        ∀ r w p : BitVec 2, sigLookup st r w p =
          if r.setWidth 8 = rate ∧ w.setWidth 8 = swing ∧ p.setWidth 8 = preemp then ⟨pre, main, post⟩
          else sigLookup s.blk.store r w p) ∧
    ((rate > 3 ∨ swing > 3 ∨ preemp > 3) →
      exec (.sigtabSet rate swing preemp pre main post) s = .next { s with blk := { s.blk with
        port := { s.blk.port with resStatus := 1 }
        train := { s.blk.train with micro := none }
        hist := s.blk.hist ++ [.cmdStart 0x13, .cmdEnd .invalidArgument]
        loc := { s.blk.loc with ret := .invalidArgument } } })

/-- A configuration write while the configuration is locked is the fault `ConfigWriteAfterUse`; a training command in a phase that
does not list it, and `PARAM.SESSION` during a session, is the fault `SequenceViolation`; beyond the accepted command's `CmdStart`
(log entry 27), the mark is all that changes (from R172, R176, R190, R255). -/
def Obligations.LockAndSequenceFaults : Prop :=
  ∀ (i : Instr) (s : State),
    (((∃ f v, i = .paramSet f v) ∨ ∃ r w p a b c, i = .sigtabSet r w p a b c) → s.blk.store.configLocked = true →
      exec i s = .next { s with blk := { s.blk with
        faults := { s.blk.faults with configWriteAfterUse := true }, hist := s.blk.hist ++ [.cmdStart (opcodeOf i)] } }) ∧
    ((isTraining i = true ∧ i ∉ legalTraining s.blk.train.phase) ∨
      (i = .paramSession ∧ s.blk.train.phase ∉ [Phase.idle, .done, .failed]) →
      exec i s = .next { s with blk := { s.blk with
        faults := { s.blk.faults with sequenceViolation := true }, hist := s.blk.hist ++ [.cmdStart (opcodeOf i)] } })

/-! ### The checked DPCD access -/

/-- A checked DPCD access, for every access the block makes: a reply `OK` with DEFER or I2C_DEFER is answered by the same request
again, at most `DEFER_RETRY_MAX` times; any other answer, a NACK, a short payload, an error or the wait's expiry among them, ends
it at once; it succeeds exactly when its last answer is an ACK with nothing wrong for the whole size, and a read has then put the
bytes into `IBUF`. The access faults never (from R149, R150, R151, R152). -/
def Obligations.CheckedAccess : Prop :=
  ∀ (a : Access) (b : Block) (ds : List AuxAnswer) (f : AuxAnswer) (rest : List AuxAnswer),
    b.aux.fsm = .idle → Quiet b → b.env.aux = ds ++ f :: rest → (∀ x ∈ ds, Defers x) → ds.length ≤ Config.deferRetryMax →
    (¬ Defers f ∨ ds.length = Config.deferRetryMax) →
    ∃ c d, runAccess boundary a b = (.norm, c) ∧ c.aux.fsm = .idle ∧ c.env.aux = rest ∧ c.faults = b.faults ∧
      (c.loc.ok = true ↔ WholeAck a f) ∧ c.hist = b.hist ++ d ∧
      d.filter Event.isIssue =
        List.replicate (ds.length + 1)
          (.auxIssue ((if a.isWrite then 0x8#4 else 0x9#4) ++ a.addr ++ (a.size - 1)) false (a.data b)) ∧
      (a.isWrite = false → WholeAck a f → ∀ r dt, f = .reply r dt → ∀ k : Fin 16, k.val < a.size.toNat → c.ibuf[k] = dt[k])

/-! ### Link training -/

/-- Every training command in a phase that lists it, and `SINK.IRQ` in every phase, runs to its end whatever the sink, the PHY and
the sink's interrupts do: it raises no fault, leaves no transaction in flight, and its last event is the `CmdEnd` of the status in
`RES_STATUS` (from R13, R190, R240, R251). That the command ends although services come freely is the model's choice (log entry
6): R263 asks such a claim for a fairness assumption, which a command run whole has built in. -/
def Obligations.LegalCommandsEnd : Prop :=
  ∀ (i : Instr) (s : State), (i ∈ legalTraining s.blk.train.phase ∨ i = .sinkIrq) → s.blk.aux.fsm = .idle →
    ∃ b st d, exec i s = .next { s with blk := b } ∧ b.faults = s.blk.faults ∧ b.refused = s.blk.refused ∧
      b.aux.fsm = .idle ∧ b.svc.active = s.blk.svc.active ∧ b.train.micro = none ∧ b.port.resStatus = Status.code st ∧
      b.hist = s.blk.hist ++ [.cmdStart (opcodeOf i)] ++ d ++ [.cmdEnd st]

/-- `TRAIN.INIT` when the sink acknowledges everything (R192 to R199): the registers it writes, the PHY commands and the AUX
requests in their order; nothing else of the training registers or the shadows changes. -/
def Obligations.InitCompletes : Prop :=
  ∀ (s : State) (cap d1 d2 d3 : Buf) (rest : List AuxAnswer),
    let p := s.blk.store.defaultParam
    s.blk.train.phase ∈ [Phase.idle, .done, .failed] → s.blk.aux.fsm = .idle → Quiet s.blk →
    s.blk.env.aux = ackRead 16 cap :: ((if p.fecEn then [ackWrite d1] else []) ++ ackWrite d2 :: ackWrite d3 :: rest) →
    ∃ b, exec .trainInit s = .next { s with blk := b } ∧ b.port.resStatus = 0 ∧
      b.train = { s.blk.train with
        sessionParam := p
        resultValid := false
        cap := cap
        status :=
          { curLanes := p.initLanes, curRate := p.initRate, swing := p.initSwing, preemp := p.initPreemp
            mbps := 0, khz := 0, fecActive := false }
        eqTps := Config.selectEqTps p.eqTps cap
        phase := .initOk
        micro := none } ∧
      b.store = { s.blk.store with configLocked := true } ∧
      b.phy = { s.blk.phy with
        framing := .known (if p.fecEn then .efFec else if p.enhanceFrameEn then .ef else .normal)
        xmitMask := .known (laneMask p.initLanes) } ∧
      b.hist = s.blk.hist ++
        ([.cmdStart 0x03, .auxIssue 0x9000000F false [], answerEvent (ackRead 16 cap)] ++
          (if p.fecEn then [.auxIssue 0x80012000 false [0x01], answerEvent (ackWrite d1)] else []) ++
          [.hwOp (.setFramingMode (if p.fecEn then .efFec else if p.enhanceFrameEn then .ef else .normal)) false,
            .auxIssue 0x80010700 false [if p.sscEn then 0x10 else 0x00], answerEvent (ackWrite d2),
            .auxIssue 0x80010800 false [0x01], answerEvent (ackWrite d3),
            .hwOp (.enableXmit (laneMask p.initLanes)) false, .cmdEnd .ok])

/-- `TRAIN.INIT` from every state that admits it, whatever the agents do: the configuration is locked, the session takes the
defaults, the earlier result is invalid, and the command ends `OK` in `INIT_OK`, or `ProtocolError` in `FAILED_PENDING` with
`STATUS` as it was (from R192, R200, R260). That the command ends although services come freely is the model's choice (log entry
6). -/
def Obligations.InitOutcome : Prop :=
  ∀ s : State, s.blk.train.phase ∈ [Phase.idle, .done, .failed] → s.blk.aux.fsm = .idle →
    ∃ b, exec .trainInit s = .next { s with blk := b } ∧ b.store = { s.blk.store with configLocked := true } ∧
      b.train.sessionParam = s.blk.store.defaultParam ∧ b.train.resultValid = false ∧
      ((b.port.resStatus = 0 ∧ b.train.phase = .initOk) ∨
        (b.port.resStatus = 3 ∧ b.train.phase = .failedPending ∧ b.train.status = s.blk.train.status))

/-- `TRAIN.CR` when clock recovery is done on every active lane at once (from R201 to R205): the history in its order, with one
pattern set, one delay, one status read (R14, R68, R286); `RETRY` and `NOT_UPDATED` are 0, the levels are as sent, and the PHY is
programmed for the active lanes only. -/
def Obligations.CrConverges : Prop :=
  ∀ (s : State) (d1 d2 d3 : Buf) (rest : List AuxAnswer),
    let st := s.blk.train.status
    s.blk.train.phase ∈ [Phase.initOk, .retryPending] → s.blk.aux.fsm = .idle → Quiet s.blk → PhyOk s.blk →
    s.blk.env.aux = ackWrite d1 :: ackWrite d2 :: ackRead 6 d3 :: rest →
    (∀ i : Lane, i.val < st.curLanes.toNat → laneCr (sixBytes d3) i = true) →
    ∃ b, exec .trainCr s = .next { s with blk := b } ∧ b.port.resStatus = 0 ∧
      b.train = { s.blk.train with phase := .crOk, micro := none, retry := 0, notUpdated := 0, lstat := sixBytes d3 } ∧
      b.phy = { s.blk.phy with
        lanes := .known st.curLanes
        rate := .known st.curRate
        xmitMask := .known (laneMask st.curLanes)
        pattern := .known .tps1
        drive := Vector.ofFn fun i : Lane =>
          if i.val < st.curLanes.toNat then
            .known ⟨st.swing[i], st.preemp[i], sigLookup s.blk.store st.curRate st.swing[i] st.preemp[i]⟩
          else s.blk.phy.drive[i] } ∧
      b.hist = s.blk.hist ++
        (.cmdStart 0x04 :: crEntryEvents st ++
          iterationEvents s.blk.store s.blk.train.sessionParam st .tps1 0x21 .crDelay (ackWrite d1) (ackWrite d2) (ackRead 6 d3) ++
          [.cmdEnd .ok])

/-- `TRAIN.CR` when clock recovery is never done and the sink asks for the levels it has (the property of fallback monotonicity:
R206, R207, R209, R215, R216): the phase ends after exactly five iterations, with the ladder's step: one rate lower, or from RBR
one lane count lower at the initial rate, or from RBR and one lane `Fatal`. -/
def Obligations.CrGivesUp : Prop :=
  ∀ (s : State) (w : Fin 10 → Buf) (r : Fin 5 → Buf) (rest : List AuxAnswer),
    let st := s.blk.train.status
    s.blk.train.phase ∈ [Phase.initOk, .retryPending] → s.blk.aux.fsm = .idle → Quiet s.blk → PhyOk s.blk →
    s.blk.env.aux =
      [ackWrite (w 0), ackWrite (w 1), ackRead 6 (r 0), ackWrite (w 2), ackWrite (w 3), ackRead 6 (r 1),
        ackWrite (w 4), ackWrite (w 5), ackRead 6 (r 2), ackWrite (w 6), ackWrite (w 7), ackRead 6 (r 3),
        ackWrite (w 8), ackWrite (w 9), ackRead 6 (r 4)] ++ rest →
    (∀ k, ∃ i : Lane, i.val < st.curLanes.toNat ∧ laneCr (sixBytes (r k)) i = false) →
    (∀ k, ∀ i : Lane, i.val < st.curLanes.toNat → laneAsks (sixBytes (r k)) i st.swing[i] st.preemp[i]) →
    ∃ b d, exec .trainCr s = .next { s with blk := b } ∧ b.train.retry = 5 ∧ b.train.notUpdated = 5 ∧
      b.train.lstat = sixBytes (r 4) ∧ b.hist = s.blk.hist ++ d ∧ d.countP Event.isIssue = 15 ∧
      (st.curRate ≠ 0 →
        b.port.resStatus = 5 ∧ b.train.phase = .retryPending ∧
          b.train.status = { st with
            curRate := st.curRate - 1
            swing := s.blk.train.sessionParam.initSwing
            preemp := s.blk.train.sessionParam.initPreemp }) ∧
      (st.curRate = 0 → st.curLanes ≠ .one →
        b.port.resStatus = 5 ∧ b.train.phase = .retryPending ∧
          b.train.status = { st with
            curLanes := if st.curLanes = .four then .two else .one
            curRate := s.blk.train.sessionParam.initRate
            swing := s.blk.train.sessionParam.initSwing
            preemp := s.blk.train.sessionParam.initPreemp }) ∧
      (st.curRate = 0 → st.curLanes = .one → b.port.resStatus = 6 ∧ b.train.phase = .failedPending ∧ b.train.status = st)

/-- `TRAIN.CR` from every state that admits it, whatever the agents do: it ends in one of the five ways its rule lists, each with
its phase and with the counters within their bounds: below both when it converges or an access fails, at one of them when it gives
up, and as they were when the PHY is busy at its entry (from R201, R207, R209, R218, R260). That the command ends although
services come freely is the model's choice (log entry 6). -/
def Obligations.CrOutcome : Prop :=
  ∀ s : State, s.blk.train.phase ∈ [Phase.initOk, .retryPending] → s.blk.aux.fsm = .idle →
    ∃ b, exec .trainCr s = .next { s with blk := b } ∧
      ((b.port.resStatus = 0 ∧ b.train.phase = .crOk ∧ crOk b.train.lstat b.train.status.curLanes = true ∧ b.train.retry < 10 ∧
          b.train.notUpdated < 5) ∨
        (((b.port.resStatus = 5 ∧ b.train.phase = .retryPending) ∨ (b.port.resStatus = 6 ∧ b.train.phase = .failedPending)) ∧
          5 ≤ b.train.retry ∧ b.train.retry ≤ 10 ∧ b.train.notUpdated ≤ 5 ∧ (b.train.retry = 10 ∨ b.train.notUpdated = 5)) ∨
        (b.port.resStatus = 3 ∧ b.train.phase = .failedPending ∧ b.train.retry < 10 ∧ b.train.notUpdated < 5) ∨
        (b.port.resStatus = 4 ∧ b.train.phase = .failedPending ∧ b.phy.lanes = .unknown ∧ b.phy.rate = .unknown ∧
          b.train.retry = s.blk.train.retry ∧ b.train.notUpdated = s.blk.train.notUpdated))

/-- `TRAIN.CR` when clock recovery comes in the third iteration, after a request for the levels sent and then one for other
levels: the active lanes take the request, the others keep their levels, `NOT_UPDATED` goes back to 0, and the next burst carries
the new levels (from R202, R206, R207). -/
def Obligations.CrAdjusts : Prop :=
  ∀ (s : State) (w : Fin 6 → Buf) (r1 r2 r3 : Buf) (rest : List AuxAnswer),
    let st := s.blk.train.status
    let p := s.blk.train.sessionParam
    s.blk.train.phase ∈ [Phase.initOk, .retryPending] → s.blk.aux.fsm = .idle → Quiet s.blk → PhyOk s.blk →
    s.blk.env.aux =
      [ackWrite (w 0), ackWrite (w 1), ackRead 6 r1, ackWrite (w 2), ackWrite (w 3), ackRead 6 r2,
        ackWrite (w 4), ackWrite (w 5), ackRead 6 r3] ++ rest →
    (∃ i : Lane, i.val < st.curLanes.toNat ∧ laneCr (sixBytes r1) i = false) →
    (∃ i : Lane, i.val < st.curLanes.toNat ∧ laneCr (sixBytes r2) i = false) →
    (∀ i : Lane, i.val < st.curLanes.toNat → laneCr (sixBytes r3) i = true) →
    (∀ i : Lane, i.val < st.curLanes.toNat → laneAsks (sixBytes r1) i st.swing[i] st.preemp[i]) →
    (∃ i : Lane, i.val < st.curLanes.toNat ∧ ¬ laneAsks (sixBytes r2) i st.swing[i] st.preemp[i]) →
    ∃ b, exec .trainCr s = .next { s with blk := b } ∧ b.port.resStatus = 0 ∧ b.train.phase = .crOk ∧ b.train.retry = 2 ∧
      b.train.notUpdated = 0 ∧
      (∀ i : Lane, i.val < st.curLanes.toNat → laneAsks (sixBytes r2) i b.train.status.swing[i] b.train.status.preemp[i]) ∧
      (∀ i : Lane, ¬ i.val < st.curLanes.toNat →
        b.train.status.swing[i] = st.swing[i] ∧ b.train.status.preemp[i] = st.preemp[i]) ∧
      b.train.status = { st with swing := b.train.status.swing, preemp := b.train.status.preemp } ∧
      (let iteration := fun st a1 a2 a3 => iterationEvents s.blk.store p st .tps1 0x21 .crDelay a1 a2 a3
       b.hist = s.blk.hist ++
         (.cmdStart 0x04 :: crEntryEvents st ++ iteration st (ackWrite (w 0)) (ackWrite (w 1)) (ackRead 6 r1) ++
           iteration st (ackWrite (w 2)) (ackWrite (w 3)) (ackRead 6 r2) ++
           iteration b.train.status (ackWrite (w 4)) (ackWrite (w 5)) (ackRead 6 r3) ++ [.cmdEnd .ok]))

/-- `TRAIN.EQ` when the first status shows clock recovery and equalization on every active lane (R210 to R213): one iteration at
the rate and lane count of clock recovery, one delay, with the session's pattern at both ends, and the history in its order (R14,
R68, R286). -/
def Obligations.EqConverges : Prop :=
  ∀ (s : State) (d1 d2 d3 : Buf) (rest : List AuxAnswer),
    let st := s.blk.train.status
    s.blk.train.phase = .crOk → s.blk.aux.fsm = .idle → Quiet s.blk →
    s.blk.env.aux = ackWrite d1 :: ackWrite d2 :: ackRead 6 d3 :: rest →
    (∀ i : Lane, i.val < st.curLanes.toNat → laneCr (sixBytes d3) i = true ∧ laneEq (sixBytes d3) i = true) →
    ∃ b, exec .trainEq s = .next { s with blk := b } ∧ b.port.resStatus = 0 ∧
      b.train = { s.blk.train with phase := .eqOk, micro := none, retry := 0, notUpdated := 0, lstat := sixBytes d3 } ∧
      b.phy = { s.blk.phy with
        pattern := .known s.blk.train.eqTps.pattern
        drive := Vector.ofFn fun i : Lane =>
          if i.val < st.curLanes.toNat then
            .known ⟨st.swing[i], st.preemp[i], sigLookup s.blk.store st.curRate st.swing[i] st.preemp[i]⟩
          else s.blk.phy.drive[i] } ∧
      (let x := s.blk.train.eqTps.pattern
       b.hist = s.blk.hist ++
         (.cmdStart 0x05 ::
           iterationEvents s.blk.store s.blk.train.sessionParam st x (patByte x) .eqDelay (ackWrite d1) (ackWrite d2)
             (ackRead 6 d3) ++
           [.cmdEnd .ok]))

/-- When the first status of `TRAIN.EQ` shows clock recovery lost on an active lane, the loop is left at once: no adjust, no
iteration counted, and the ladder's step taken in each of its three cases, even if equalization bits are set (from R212, R215). -/
def Obligations.EqLosesClock : Prop :=
  ∀ (s : State) (d1 d2 d3 : Buf) (rest : List AuxAnswer),
    let st := s.blk.train.status
    s.blk.train.phase = .crOk → s.blk.aux.fsm = .idle → Quiet s.blk →
    s.blk.env.aux = ackWrite d1 :: ackWrite d2 :: ackRead 6 d3 :: rest →
    (∃ i : Lane, i.val < st.curLanes.toNat ∧ laneCr (sixBytes d3) i = false) →
    ∃ b, exec .trainEq s = .next { s with blk := b } ∧ b.train.retry = 0 ∧ b.train.notUpdated = 0 ∧
      (st.curRate ≠ 0 →
        b.port.resStatus = 5 ∧ b.train.phase = .retryPending ∧
          b.train.status = { st with
            curRate := st.curRate - 1
            swing := s.blk.train.sessionParam.initSwing
            preemp := s.blk.train.sessionParam.initPreemp }) ∧
      (st.curRate = 0 → st.curLanes ≠ .one →
        b.port.resStatus = 5 ∧ b.train.phase = .retryPending ∧
          b.train.status = { st with
            curLanes := if st.curLanes = .four then .two else .one
            curRate := s.blk.train.sessionParam.initRate
            swing := s.blk.train.sessionParam.initSwing
            preemp := s.blk.train.sessionParam.initPreemp }) ∧
      (st.curRate = 0 → st.curLanes = .one → b.port.resStatus = 6 ∧ b.train.phase = .failedPending ∧ b.train.status = st)

/-- `TRAIN.EQ` from every state that admits it, whatever the agents do: it ends in one of the four ways its rule lists, never with
`Busy`, after at most five counted iterations (from R210, R213, R214, R218). That the command ends although services come freely
is the model's choice (log entry 6). -/
def Obligations.EqOutcome : Prop :=
  ∀ s : State, s.blk.train.phase = .crOk → s.blk.aux.fsm = .idle →
    ∃ b, exec .trainEq s = .next { s with blk := b } ∧ b.train.retry ≤ 5 ∧ b.train.notUpdated ≤ b.train.retry ∧
      ((b.port.resStatus = 0 ∧ b.train.phase = .eqOk ∧ crOk b.train.lstat b.train.status.curLanes = true ∧
          eqOk b.train.lstat b.train.status.curLanes = true) ∨
        (b.port.resStatus = 5 ∧ b.train.phase = .retryPending) ∨
        (b.port.resStatus = 6 ∧ b.train.phase = .failedPending) ∨
        (b.port.resStatus = 3 ∧ b.train.phase = .failedPending))

/-- When `TRAIN.CR` or `TRAIN.EQ` ends with `Retry`, the rate is one step lower with the lanes as they were, or, from
RBR, the lane count is one step lower with the rate back at the initial one; the levels are the initial ones; and it ends with
`Fatal` only at RBR and one lane (from R215, R216). -/
def Obligations.LadderStep : Prop :=
  ∀ (i : Instr) (s : State) (b : Block), (i = .trainCr ∨ i = .trainEq) → i ∈ legalTraining s.blk.train.phase →
    s.blk.aux.fsm = .idle → exec i s = .next { s with blk := b } →
    let old := s.blk.train.status
    let new := b.train.status
    let p := s.blk.train.sessionParam
    (b.port.resStatus = 5 →
      b.train.phase = .retryPending ∧ new.swing = p.initSwing ∧ new.preemp = p.initPreemp ∧
        ((old.curRate ≠ 0 ∧ new.curRate = old.curRate - 1 ∧ new.curLanes = old.curLanes) ∨
          (old.curRate = 0 ∧ new.curRate = p.initRate ∧
            ((old.curLanes = .four ∧ new.curLanes = .two) ∨ (old.curLanes = .two ∧ new.curLanes = .one))))) ∧
    (b.port.resStatus = 6 →
      b.train.phase = .failedPending ∧ old.curRate = 0 ∧ old.curLanes = .one ∧ new.curRate = 0 ∧ new.curLanes = .one)

/-- `TRAIN.DONE 0`, in every phase and whatever the sink and the PHY answer, ends `Fatal` (from R190, R219, R221), and after it,
as after every `TRAIN.START` that ends `Fatal`, the block is in the `Fatal` end state: all lanes off and powered down, video off,
idle pattern, no valid result (from R220, R221, R273). That the command ends although services come freely is the model's choice
(log entry 6). With no service between and an answer to the idle-pattern write that does not defer, the history of `TRAIN.DONE 0`,
log entries apart, is the teardown and the failure branch in their order, whatever the PHY answers to the power-downs (from R14,
R219). -/
def Obligations.DoneFail : Prop :=
  (∀ s : State, s.blk.aux.fsm = .idle →
    ∃ b, exec (.trainDone false) s = .next { s with blk := b } ∧ b.port.resStatus = 6 ∧ FatalEnd b) ∧
    (∀ (s : State) (w : AuxAnswer) (rest : List AuxAnswer), s.blk.aux.fsm = .idle → Quiet s.blk → s.blk.env.aux = w :: rest →
      ¬ Defers w →
      ∃ b d, ∃ busy : Lane → Bool, exec (.trainDone false) s = .next { s with blk := b } ∧ b.env.aux = rest ∧
        b.hist = s.blk.hist ++ d ∧
        d.filter Event.isStep =
          .cmdStart 0x06 :: teardownEvents w ++
            (.hwOp (.enableXmit 0x0) false ::
              ([0, 1, 2, 3] : List Lane).map fun i => .hwOp (.setPerLanePowerMode i) (busy i)) ++ [.cmdEnd .fatal]) ∧
    ∀ (s : State) (b : Block), .trainStart ∈ legalTraining s.blk.train.phase → s.blk.aux.fsm = .idle →
      exec .trainStart s = .next { s with blk := b } → b.port.resStatus = 6 → FatalEnd b

/-- `TRAIN.DONE 1` after equalization never fails, whatever the sink and the PHY answer: it ends `OK` in `DONE` with the result
recorded and the negotiated rate; without a request for FEC it is not active (from R219, R220, R222 to R225). That the command
ends although services come freely is the model's choice (log entry 6). With FEC requested, it is active after the first of at
most three attempts whose `FEC_STATUS` read succeeds with bit 0 set; after three attempts without, failed reads among them, the
PHY's FEC is switched off and the give-up logged; each attempt enables it in the PHY, waits and reads once. With no service
between and a teardown answered without DEFER, the events but the log entries stand in that order (R14, R68). -/
def Obligations.DoneOk : Prop :=
  (∀ s : State, s.blk.train.phase = .eqOk → s.blk.aux.fsm = .idle →
    ∃ b, exec (.trainDone true) s = .next { s with blk := b } ∧ b.port.resStatus = 0 ∧ SuccessEnd b ∧
      b.train.status = { s.blk.train.status with
        mbps := mbpsOf s.blk.train.status.curRate
        khz := khzOf s.blk.train.status.curRate
        fecActive := b.train.status.fecActive } ∧
      (s.blk.train.sessionParam.fecEn = false → b.train.status.fecActive = false ∧ b.phy.fec = s.blk.phy.fec) ∧
      (s.blk.train.sessionParam.fecEn = true → b.phy.fec = .known b.train.status.fecActive)) ∧
    (∀ (s : State) (w : AuxAnswer) (rest : List AuxAnswer), s.blk.train.phase = .eqOk → s.blk.aux.fsm = .idle → Quiet s.blk →
      s.blk.train.sessionParam.fecEn = false → ¬ Defers w → s.blk.env.aux = w :: rest →
      ∃ b d, exec (.trainDone true) s = .next { s with blk := b } ∧ b.env.aux = rest ∧ b.hist = s.blk.hist ++ d ∧
        d.filter Event.isStep = .cmdStart 0x06 :: teardownEvents w ++ [.cmdEnd .ok]) ∧
    ∀ (s : State) (w : AuxAnswer) (misses rest : List AuxAnswer),
      s.blk.train.phase = .eqOk → s.blk.aux.fsm = .idle → Quiet s.blk → s.blk.train.sessionParam.fecEn = true → ¬ Defers w →
      (∀ x ∈ misses, ¬ FecSeen x ∧ ¬ Defers x) →
      (∀ hit, misses.length < 3 → FecSeen hit → s.blk.env.aux = w :: misses ++ hit :: rest →
        ∃ b d, exec (.trainDone true) s = .next { s with blk := b } ∧ b.train.status.fecActive = true ∧
          b.phy.fec = .known true ∧ b.env.aux = rest ∧ b.hist = s.blk.hist ++ d ∧
          d.filter Event.isStep =
            .cmdStart 0x06 :: teardownEvents w ++ (misses ++ [hit]).flatMap fecAttemptEvents ++ [.cmdEnd .ok]) ∧
      (misses.length = 3 → s.blk.env.aux = w :: misses ++ rest →
        ∃ b d, exec (.trainDone true) s = .next { s with blk := b } ∧ b.train.status.fecActive = false ∧
          b.phy.fec = .known false ∧ b.env.aux = rest ∧ b.hist = s.blk.hist ++ d ∧ .log (.fecDisabled 3) ∈ d ∧
          d.filter Event.isStep =
            .cmdStart 0x06 :: teardownEvents w ++ misses.flatMap fecAttemptEvents ++
              [.hwOp (.enableFec false) false, .cmdEnd .ok])

/-- `TRAIN.START` from every state that admits it, whatever the agents do, ends in one of two ways: `OK` in the end state of a
successful session, or `Fatal` in the `Fatal` end state. It never ends with `Retry`, `ProtocolError` or `Busy` (from R191, R226,
R273). That the command ends although services come freely is the model's choice (log entry 6). -/
def Obligations.StartOutcome : Prop :=
  ∀ s : State, s.blk.train.phase ∈ [Phase.idle, .done, .failed] → s.blk.aux.fsm = .idle →
    ∃ b, exec .trainStart s = .next { s with blk := b } ∧ b.store = { s.blk.store with configLocked := true } ∧
      b.train.sessionParam = s.blk.store.defaultParam ∧
      ((b.port.resStatus = 0 ∧ SuccessEnd b) ∨ (b.port.resStatus = 6 ∧ FatalEnd b))

/-- `TRAIN.START` when the sink acknowledges everything and both phases converge at once, without FEC (R191): the link runs at the
initial rate and lane count, and exactly ten AUX requests were made. -/
def Obligations.StartCompletes : Prop :=
  ∀ (s : State) (cap w1 w2 w3 w4 r1 w5 w6 r2 w7 : Buf) (rest : List AuxAnswer),
    let p := s.blk.store.defaultParam
    s.blk.train.phase ∈ [Phase.idle, .done, .failed] → s.blk.aux.fsm = .idle → Quiet s.blk → PhyOk s.blk → p.fecEn = false →
    s.blk.env.aux =
      [ackRead 16 cap, ackWrite w1, ackWrite w2, ackWrite w3, ackWrite w4, ackRead 6 r1, ackWrite w5, ackWrite w6, ackRead 6 r2,
        ackWrite w7] ++ rest →
    (∀ i : Lane, i.val < p.initLanes.toNat →
      laneCr (sixBytes r1) i = true ∧ laneCr (sixBytes r2) i = true ∧ laneEq (sixBytes r2) i = true) →
    ∃ b d, exec .trainStart s = .next { s with blk := b } ∧ b.port.resStatus = 0 ∧ SuccessEnd b ∧
      b.train.status =
        { curLanes := p.initLanes, curRate := p.initRate, swing := p.initSwing, preemp := p.initPreemp
          mbps := mbpsOf p.initRate, khz := khzOf p.initRate, fecActive := false } ∧
      b.phy.lanes = .known p.initLanes ∧ b.phy.rate = .known p.initRate ∧ b.phy.xmitMask = .known (laneMask p.initLanes) ∧
      b.train.lstat = sixBytes r2 ∧ b.hist = s.blk.hist ++ d ∧ d.countP Event.isIssue = 10

/-- One session runs at most `3 * (init_rate + 1)` clock-recovery phases from four lanes (twelve from HBR3), `2 * (init_rate + 1)`
from two and `init_rate + 1` from one, whatever the agents do: each phase begins with one `set_lane_count_link_rate` (from R217).
That the command ends although services come freely is the model's choice (log entry 6). -/
def Obligations.LadderBound : Prop :=
  ∀ s : State, s.blk.train.phase ∈ [Phase.idle, .done, .failed] → s.blk.aux.fsm = .idle →
    ∃ b d, exec .trainStart s = .next { s with blk := b } ∧ b.hist = s.blk.hist ++ d ∧
      d.countP Event.isRateSet ≤ rungBound s.blk.store.defaultParam.initLanes s.blk.store.defaultParam.initRate

/-- After a successful session `STATUS` is frozen: in `DONE` no instruction but `TRAIN.INIT` and `TRAIN.START` changes it (from
R225). -/
def Obligations.StatusFrozen : Prop :=
  ∀ (i : Instr) (s t : State), s.blk.train.phase = .done → i ≠ .trainInit → i ≠ .trainStart → exec i s = .next t →
    t.blk.train.status = s.blk.train.status

/-- The frames of `TRAIN.INIT`, `TRAIN.CR` and `TRAIN.EQ`, in every state and whatever the agents do. `TRAIN.INIT`: `RETRY`,
`NOT_UPDATED`, `LSTAT` and the recorded result are unchanged, and of the PHY only framing and the transmit mask may change.
`TRAIN.CR` and `TRAIN.EQ`: the session's parameters, `CAP`, the EQ pattern, the result and the negotiated values are unchanged;
FEC, power, framing and video are untouched; and `TRAIN.EQ` gives the PHY no rate, lane count or transmit mask (from R192, R201,
R210). -/
def Obligations.StepFrames : Prop :=
  (∀ (s : State) (b : Block), exec .trainInit s = .next { s with blk := b } →
    b.train.retry = s.blk.train.retry ∧ b.train.notUpdated = s.blk.train.notUpdated ∧ b.train.lstat = s.blk.train.lstat ∧
      b.train.result = s.blk.train.result ∧
      b.phy = { s.blk.phy with framing := b.phy.framing, xmitMask := b.phy.xmitMask }) ∧
    ∀ (i : Instr) (s : State) (b : Block), (i = .trainCr ∨ i = .trainEq) → exec i s = .next { s with blk := b } →
      b.train.sessionParam = s.blk.train.sessionParam ∧ b.train.cap = s.blk.train.cap ∧ b.train.eqTps = s.blk.train.eqTps ∧
        b.train.resultValid = s.blk.train.resultValid ∧ b.train.result = s.blk.train.result ∧
        b.train.status.mbps = s.blk.train.status.mbps ∧ b.train.status.khz = s.blk.train.status.khz ∧
        b.train.status.fecActive = s.blk.train.status.fecActive ∧
        b.phy = { s.blk.phy with
          lanes := b.phy.lanes, rate := b.phy.rate, xmitMask := b.phy.xmitMask, pattern := b.phy.pattern, drive := b.phy.drive } ∧
        (i = .trainEq → b.phy.lanes = s.blk.phy.lanes ∧ b.phy.rate = s.blk.phy.rate ∧ b.phy.xmitMask = s.blk.phy.xmitMask)

/-- The frame of `TRAIN.DONE`, in every state and whatever the agents do: the session's parameters, the counters, `CAP`, `LSTAT`,
the EQ pattern, rate, lanes and levels are unchanged; the PHY's rate, lanes, drive and framing are untouched; with failure
`STATUS`, the recorded copy and FEC too, with success the transmit mask and the power (R219). -/
def Obligations.DoneFrame : Prop :=
  ∀ (success : Bool) (s : State) (b : Block), exec (.trainDone success) s = .next { s with blk := b } →
    b.train.sessionParam = s.blk.train.sessionParam ∧ b.train.retry = s.blk.train.retry ∧
      b.train.notUpdated = s.blk.train.notUpdated ∧ b.train.cap = s.blk.train.cap ∧ b.train.lstat = s.blk.train.lstat ∧
      b.train.eqTps = s.blk.train.eqTps ∧
      b.train.status = { s.blk.train.status with
        mbps := b.train.status.mbps, khz := b.train.status.khz, fecActive := b.train.status.fecActive } ∧
      b.phy.lanes = s.blk.phy.lanes ∧ b.phy.rate = s.blk.phy.rate ∧ b.phy.drive = s.blk.phy.drive ∧
      b.phy.framing = s.blk.phy.framing ∧
      (success = false →
        b.train.status = s.blk.train.status ∧ b.train.result = s.blk.train.result ∧ b.phy.fec = s.blk.phy.fec) ∧
      (success = true → b.phy.xmitMask = s.blk.phy.xmitMask ∧ b.phy.power = s.blk.phy.power)

/-- The host's side of the frame of every training command and of `SINK.IRQ`, in every state that runs them and whatever the
agents do: of the host's registers only `RES_STATUS` changes, `DEFAULT_PARAM` and the signal table are unchanged, and so is
`CONFIG_LOCKED` but by `TRAIN.INIT` and `TRAIN.START`; and `SINK.IRQ` changes no training register but the micro-step, and no
shadow (from R28, R31, R44, R170, R240). -/
def Obligations.HostSideFrame : Prop :=
  ∀ (i : Instr) (s : State) (b : Block), (i ∈ legalTraining s.blk.train.phase ∨ i = .sinkIrq) → s.blk.aux.fsm = .idle →
    exec i s = .next { s with blk := b } →
    SameHostSide s.blk b ∧ b.store.defaultParam = s.blk.store.defaultParam ∧ b.store.sigTable = s.blk.store.sigTable ∧
      (i ≠ .trainInit → i ≠ .trainStart → b.store.configLocked = s.blk.store.configLocked) ∧
      (i = .sinkIrq → b.train = { s.blk.train with micro := none } ∧ b.phy = s.blk.phy)

/-! ### The sink service-interrupt parser -/

/-- `SINK.IRQ` from every state with no transaction in flight, whatever the agents do, ends `OK` or `ProtocolError` and never
otherwise (from R240, R247). That the command ends although services come freely is the model's choice (log entry 6). A vector
read that fails without DEFER ends it with `ProtocolError`: the record is empty, and nothing is written to the sink (from R241,
R248). -/
def Obligations.SinkIrqOutcome : Prop :=
  (∀ s : State, s.blk.aux.fsm = .idle →
    ∃ b, exec .sinkIrq s = .next { s with blk := b } ∧ (b.port.resStatus = 0 ∨ b.port.resStatus = 3)) ∧
    ∀ (s : State) (f : AuxAnswer) (rest : List AuxAnswer), s.blk.aux.fsm = .idle → Quiet s.blk → s.blk.env.aux = f :: rest →
      ¬ Defers f → ¬ WholeAck .irqVector f →
      ∃ b d, exec .sinkIrq s = .next { s with blk := b } ∧ b.port.resStatus = 3 ∧ b.sirq = zeroSirq ∧ b.env.aux = rest ∧
        b.hist = s.blk.hist ++ d ∧ d.filter Event.isIssue = [.auxIssue 0x90020100 false []]

/-- `SINK.IRQ` after its vector was read, for every vector, test request and pattern id, and wherever a read fails (from R240,
R242 to R248): the reads that the bytes read ask for are made in order up to the first that fails (without DEFER), and then,
whatever happened, exactly the vector byte read is written back. The record holds what was read and nothing of an earlier run; the
fields not read stay 0. The status is `OK` exactly when neither a read nor the clear failed. -/
def Obligations.SinkIrqParses : Prop :=
  ∀ (s : State) (data : Access → Buf) (k : Nat) (f c : AuxAnswer) (rest : List AuxAnswer),
    let v := (data .irqVector)[0]
    let reads := parserReads v (data .testRequest)[0] (data .phyTestPattern)[0]
    s.blk.aux.fsm = .idle → Quiet s.blk → k ≤ reads.length →
    s.blk.env.aux =
      ackRead 1 (data .irqVector) :: ((reads.take k).map fun a => ackRead a.size (data a)) ++
        (if k < reads.length then [f] else []) ++ c :: rest →
    (∀ a, reads[k]? = some a → ¬ Defers f ∧ ¬ WholeAck a f) → ¬ Defers c →
    ∃ b d, exec .sinkIrq s = .next { s with blk := b } ∧ b.env.aux = rest ∧
      (b.port.resStatus = 0 ∨ b.port.resStatus = 3) ∧
      (b.port.resStatus = 0 ↔ k = reads.length ∧ WholeAck .irqClear c) ∧
      b.sirq = parserRecord data (reads.take (k + 1)) (reads.take k) ∧ b.hist = s.blk.hist ++ d ∧
      d.filter Event.isIssue =
        .auxIssue 0x90020100 false [] :: (reads.take (k + 1)).map readIssue ++ [.auxIssue 0x80020100 false [v]]

/-- A training test request (R242, R243, R246): the requested rate code and lane count are recorded as read, the phy-pattern
fields stay 0, and the vector is cleared last. -/
def Obligations.SinkIrqTrainingTest : Prop :=
  ∀ (s : State) (d1 d2 d3 d4 d5 : Buf) (rest : List AuxAnswer), s.blk.aux.fsm = .idle → Quiet s.blk →
    s.blk.env.aux = [ackRead 1 d1, ackRead 1 d2, ackRead 1 d3, ackRead 1 d4, ackWrite d5] ++ rest →
    d1[0].getLsbD 1 = true → d2[0].getLsbD 0 = true → d2[0].getLsbD 3 = false →
    ∃ b d, exec .sinkIrq s = .next { s with blk := b } ∧ b.port.resStatus = 0 ∧
      b.sirq = { zeroSirq with
        valid := true, raw := d1[0], testTraining := true, testRate := d3[0], testLanes := d4[0] &&& 0x1F,
        cpIrq := d1[0].getLsbD 2 } ∧
      b.hist = s.blk.hist ++ d ∧
      d.filter Event.isIssue =
        [.auxIssue 0x90020100 false [], .auxIssue 0x90021800 false [], .auxIssue 0x90021900 false [],
          .auxIssue 0x90022000 false [], .auxIssue 0x80020100 false [d1[0]]]

/-- A phy-pattern test request with the 80-bit custom pattern (R242, R244, R246, R104): the ten bytes and the adjust requests of
all four lanes are recorded, with the vector and the content-protection bit and nothing else, and the vector is cleared last. -/
def Obligations.SinkIrqPhyTest : Prop :=
  ∀ (s : State) (d1 d2 d3 d4 d5 d6 : Buf) (rest : List AuxAnswer), s.blk.aux.fsm = .idle → Quiet s.blk →
    s.blk.env.aux = [ackRead 1 d1, ackRead 1 d2, ackRead 1 d3, ackRead 10 d4, ackRead 2 d5, ackWrite d6] ++ rest →
    d1[0].getLsbD 1 = true → d2[0].getLsbD 0 = false → d2[0].getLsbD 3 = true → d3[0] = 0x04 →
    ∃ b d, exec .sinkIrq s = .next { s with blk := b } ∧ b.port.resStatus = 0 ∧
      b.sirq =
        { zeroSirq with
          valid := true
          raw := d1[0]
          testPhy := true
          testPattern := 0x04
          customValid := true
          custom := Vector.ofFn fun k => d4[k.val]'(by omega)
          adjSwing := Vector.ofFn fun i => (d5[i.val / 2]'(by omega)).extractLsb' (4 * (i.val % 2)) 2
          adjPreemp := Vector.ofFn fun i => (d5[i.val / 2]'(by omega)).extractLsb' (4 * (i.val % 2) + 2) 2
          cpIrq := d1[0].getLsbD 2 } ∧
      b.hist = s.blk.hist ++ d ∧
      d.filter Event.isIssue =
        [.auxIssue 0x90020100 false [], .auxIssue 0x90021800 false [], .auxIssue 0x90024800 false [],
          .auxIssue 0x90025009 false [], .auxIssue 0x90020601 false [], .auxIssue 0x80020100 false [d1[0]]]

/-! ### The asynchronous service -/

/-- A boundary, with whatever services it takes, changes no register the interrupted command reads, and of those the host reads
only `SIRQ` (R38, R43, R248): the host port, the parameter store, the training registers, the shadows and the marks are as they
were, and so are the locals, which is how the model reads R262's "no state of its own changed" (log entry 18); the history only
grows; and it leaves the engine and the service bit as it found them (from R262, R266, R288). -/
def Obligations.ServiceTransparent : Prop :=
  ∀ b : Block, SameButService b (boundary b) ∧ b.hist <+: (boundary b).hist ∧ (boundary b).aux.fsm = b.aux.fsm ∧
    (boundary b).svc.active = b.svc.active

/-- A pending service that the boundary admits runs the parser (from R240, R246, R247, R262): the request is taken, `SIRQ` and the
sink are served as by `SINK.IRQ`, with the same requests, and no `CmdStart` or `CmdEnd`; a vector read that times out is logged as
`SinkIrqError` and writes nothing to the sink. And a source that requests service without end is served again and again at one
boundary of a command run by micro-steps (from R263). -/
def Obligations.AsyncServiceRuns : Prop :=
  (∀ (b : Block) (x : Boundary) (n : Nat), b.aux.fsm = .idle → b.svc.active = false → b.env.irq = [x] → b.env.irqQuiet = true →
    (b.svc.pending = true ∨ x.request = true) → x.serve = .times (n + 1) →
    (∀ d1 d2 rest, b.env.aux = ackRead 1 d1 :: ackWrite d2 :: rest → d1[0].getLsbD 1 = false →
      (boundary b).sirq = { zeroSirq with valid := true, raw := d1[0], cpIrq := d1[0].getLsbD 2 } ∧
        (boundary b).svc = { pending := false, active := false } ∧ (boundary b).env.aux = rest ∧
        (boundary b).hist = b.hist ++
          [.sinkIrq, .auxIssue 0x90020100 false [], answerEvent (ackRead 1 d1), .auxIssue 0x80020100 false [d1[0]],
            answerEvent (ackWrite d2)]) ∧
    (∀ rest, b.env.aux = .timedOut :: rest →
      (boundary b).sirq = zeroSirq ∧ (boundary b).svc = { pending := false, active := false } ∧ (boundary b).env.aux = rest ∧
        (boundary b).hist = b.hist ++
          [.sinkIrq, .auxIssue 0x90020100 false [], .auxTimeout, .log (.nonAck (boundary b).aux.req b.aux.reply false),
            .log (.sinkIrqError 0)])) ∧
    ∀ (b : Block) (k : List Frame), b.aux.fsm = .idle → b.svc.active = false →
      microStep b (.serveOn :: k) =
        ({ b with svc := { pending := false, active := true } }, .code parserCode :: .endService b.loc :: .serveOn :: k)

/-- No service starts while a transaction is in flight or a service runs: the boundary then only notes the request (R262, R264,
R266). -/
def Obligations.NoServiceInFlight : Prop :=
  ∀ b : Block, (b.aux.fsm = .wait ∨ b.svc.active = true) →
    ∃ env, boundary b = { b with
      env := env, svc := { b.svc with pending := b.svc.pending || (b.env.nextBoundary).1.request } }

/-! ### The machine -/

/-- What R280 states for reset: the engine idle with no valid reply and no completion, the OPEN parameters, the lock open, the
phase `IDLE` with no micro-step, no valid result, every shadow `UNKNOWN`, the sink record and service bits 0, no fault, no
refusal, an empty history, and no command running. (What R280 calls unwritten holds the model's own values, log entry 7.) -/
def Obligations.ResetValues : Prop :=
  let b := State.reset.blk
  b.aux.fsm = .idle ∧ b.aux.replyValid = false ∧ b.aux.completion = false ∧ State.reset.seq = [] ∧
    (∀ k : Fin 16, b.port.hbufWritten[k] = false) ∧ b.store.defaultParam = Config.defaultParamInit ∧
    b.store.sigTable = Config.signalTableInit ∧ b.store.configLocked = false ∧ b.train.phase = .idle ∧ b.train.micro = none ∧
    b.train.resultValid = false ∧ b.phy.lanes = .unknown ∧ b.phy.rate = .unknown ∧ b.phy.pattern = .unknown ∧
    (∀ i : Lane, b.phy.drive[i] = .unknown ∧ b.phy.power[i] = .unknown) ∧ b.phy.xmitMask = .unknown ∧ b.phy.fec = .unknown ∧
    b.phy.framing = .unknown ∧ b.phy.video = .unknown ∧ b.sirq = zeroSirq ∧ b.svc.pending = false ∧ b.svc.active = false ∧
    b.faults = noFaults ∧ b.refused = false ∧ b.hist = []

/-- The invariant holds at reset. -/
def Obligations.ResetInv : Prop := State.reset.Inv

/-- Every step keeps the invariant, from every state that has it: AUX requests and answers alternate in the history and `AUX_FSM`
says whether one is open, a request in flight is a legal one, the transmitter is enabled for no lane or a whole lane count, video
is never enabled and no lane powered up, and the reference sink's bytes keep their canonical form (R21, R66, R82, R83, R100, R225,
R272, R284). -/
def Obligations.StepKeepsInv : Prop :=
  ∀ s t : State, s.Inv → step s = .next t → t.Inv

/-- Nothing is taken back by any step: the history only grows, a fault, the refusal mark and the configuration lock stay (R31,
R39, R40). -/
def Obligations.StepGrows : Prop :=
  ∀ s t : State, step s = .next t → s.blk.Grows t.blk

/-- Every command keeps the two session invariants: a valid result belongs to `DONE` and is the status, and while the
configuration is unlocked the phase is `IDLE` or `FAILED` (R31, R36, R190, R225). -/
def Obligations.CommandKeepsSession : Prop :=
  ∀ (i : Instr) (s t : State), exec i s = .next t →
    (ResultInv s.blk → ResultInv t.blk) ∧ (LockInv s.blk → LockInv t.blk)

/-- A machine with a fault takes no further step (R255), and a host that writes `HCMD` or `HBUF` while a command runs raises
`CommandOverlap` and changes nothing else (R42, R255). -/
def Obligations.FaultsStop : Prop :=
  (∀ (s : State) (f : Fault), s.blk.faults = noFaults.add f → step s = .fault f) ∧
    ∀ (s : State) (a : HostAction) (rest : List HostAction), s.blk.faults = noFaults → commandRuns s.seq = true → s.host = a :: rest →
      a ≠ .wait → a ≠ .idle →
      step s = .next { s with blk := { s.blk with faults := { s.blk.faults with commandOverlap := true } } }

/-- A step runs the decoded instruction: when the host's next action is a word that decodes to `i` and nothing runs, the step is
`exec i` with that action taken and `HCMD` written, followed by the boundary between commands (from R92, R251, R262). That one
step runs the whole command is the model's choice (log entry 1), and that an AUX request word runs at the host port and leaves its
assembled word in `HCMD` is its reading (log entry 12). -/
def Obligations.StepRunsDecoded : Prop :=
  ∀ (s : State) (w : CommandWord) (i : Instr) (rest : List HostAction), s.blk.faults.first? = none → s.seq = [] →
    s.host = .run w :: rest → decode w = .ok i →
    step s = afterCommand (exec i { s with host := rest, blk.port.hcmd := hcmdWord w i })

/-- A command run one micro-step at a time ends exactly where `exec`, which runs it whole, ends (from R6, R262): after some number
of micro-steps the sequencer stands at the boundary between commands, with the block that `exec` answers, or at the fault the
command raised. And a service run one micro-step at a time ends where the whole service ends. The two levels are the model's
choice (log entry 1); that the micro-steps come to an end needs the fairness R263 names (log entry 6), which is a premise here. -/
def Obligations.MicroStepsRunCommand : Prop :=
  (∀ (i : Instr) (s : State), s.blk.faults.first? = none → FairSource s.blk.env →
    ∃ n b, exec i s = .next { s with blk := b } ∧
      (b.faults.first? = none → microRun n ((startCommand i s).blk, (startCommand i s).seq) = between b) ∧
      (b.faults.first? ≠ none → (microRun n ((startCommand i s).blk, (startCommand i s).seq)).1 = b)) ∧
    ∀ (b : Block) (n : Nat) (k : List Frame), FairSource b.env → ∃ m, microRun m (b, .serve n :: k) = (serve n b, k)

/-- The source's round trip (R56, R72): with the reference sink, a native write followed by a native read of the same bytes gives
the bytes back, at any address whose burst does not touch the write-1-to-clear byte 0x00201 or the scripted reads. -/
def Obligations.SinkRoundTrip : Prop :=
  ∀ (addr : BitVec 20) (size : Byte) (s : State) (k : RefSink), 1#8 ≤ size → size ≤ 16#8 → s.blk.aux.fsm = .idle → Quiet s.blk →
    s.blk.env.aux = [] → s.blk.env.sink = some k → memWf k.mem = true → k.status = [] → k.fec = [] →
    (∀ j < size.toNat, (addr.toNat + j) % 2 ^ 20 ≠ 0x201) →
    (∀ j : Fin 16, j.val < size.toNat → s.blk.port.hbufWritten[j] = true) →
    ∃ b, exec (.auxNw addr size) s = .next { s with blk := b } ∧ b.port.resStatus = 0 ∧ b.port.resPayload = size ∧
      ∀ port : HostRegs, ∃ c : Block,
        exec (.auxNr addr size) { s with blk := { b with port := port } } = .next { s with blk := c } ∧
          c.port.resStatus = 0 ∧ c.port.resPayload = size ∧
          ∀ j : Fin 16, j.val < size.toNat → c.port.hbuf[j] = s.blk.port.hbuf[j]

/-- The frame of the AUX commands at the reference sink: no command stores a byte outside a native write's burst, and one that is
no native write stores none; and a native write that is accepted, of bytes the host has written, stores them: inside the burst
each address holds the byte sent, but 0x00201 holds what it held with the bits sent cleared (R56, R64, R72). -/
def Obligations.SinkFrame : Prop :=
  ∀ (i : Instr) (q : Request) (s : State) (k : RefSink) (b : Block), auxRequestOf i = some q →
    s.blk.aux.fsm = .idle → Quiet s.blk → s.blk.env.aux = [] → s.blk.env.sink = some k → k.status = [] → k.fec = [] →
    exec i s = .next { s with blk := b } →
    ∃ k', b.env.sink = some k' ∧
      (∀ a, (q.isI2c = false → q.rw = 1 → ∀ j < q.size.toNat, a ≠ (q.addr.toNat + j) % 2 ^ 20) →
        memRead k'.mem a = memRead k.mem a) ∧
      (q.isI2c = false → q.rw = 1 → acceptedShape q = true → memWf k.mem = true →
        (∀ j : Fin 16, j.val < q.size.toNat → s.blk.port.hbufWritten[j] = true) →
        ∀ j : Fin 16, j.val < q.size.toNat →
          memRead k'.mem ((q.addr.toNat + j.val) % 2 ^ 20) =
            if (q.addr.toNat + j.val) % 2 ^ 20 = 0x201 then memRead k.mem 0x201 &&& ~~~s.blk.port.hbuf[j]
            else s.blk.port.hbuf[j])
end

