-- ==== Sys2Proof/Laws/Memory.lean ====
section
/-! SUPPORT. The laws of the reference sink's bytes: a read after a write, and the canonical form, which every memory operation
keeps (spec/20_memory.md R72). -/

namespace Sys2Proof.Machine

/-- The canonical form of a list with a first entry. -/
theorem memWfFrom_cons (lo : Nat) (c : Host.Cell) (m : List Host.Cell) :
    memWfFrom lo (c :: m) = true ↔ lo ≤ c.1 ∧ c.1 < 2 ^ 20 ∧ c.2 ≠ sinkDefault ∧ memWfFrom (c.1 + 1) m = true := by
  simp only [memWfFrom, Bool.and_eq_true, decide_eq_true_eq, and_assoc]

/-- A canonical list above a bound is canonical above every smaller bound. -/
theorem memWfFrom_mono {lo hi : Nat} {m : List Host.Cell} (h : lo ≤ hi) (hm : memWfFrom hi m = true) : memWfFrom lo m = true := by
  cases m with
  | nil => rfl
  | cons c m =>
    rw [memWfFrom_cons] at hm ⊢
    exact ⟨by omega, hm.2⟩

/-- Below every listed address, a canonical list reads as an unlisted address does. -/
theorem memRead_below {lo a : Nat} {m : List Host.Cell} (hm : memWfFrom lo m = true) (h : a < lo) : memRead m a = sinkDefault := by
  induction m generalizing lo with
  | nil => rfl
  | cons c m ih =>
    rw [memWfFrom_cons] at hm
    have hc : a ≠ c.1 := by omega
    simp only [memRead, hc, if_false]
    exact ih hm.2.2.2 (by omega)

/-- A write at or above a bound keeps the canonical form above it. -/
theorem memWfFrom_memWrite {lo a : Nat} {m : List Host.Cell} {v : Byte} (hm : memWfFrom lo m = true) (hlo : lo ≤ a)
    (ha : a < 2 ^ 20) : memWfFrom lo (memWrite m a v) = true := by
  induction m generalizing lo with
  | nil =>
    unfold memWrite
    split
    · rfl
    · rename_i hv
      exact (memWfFrom_cons _ _ _).2 ⟨hlo, ha, hv, rfl⟩
  | cons c m ih =>
    obtain ⟨h1, h2, h3, h4⟩ := (memWfFrom_cons _ _ _).1 hm
    simp only [memWrite]
    split
    · split
      · exact hm
      · rename_i hlt hv
        exact (memWfFrom_cons _ _ _).2 ⟨hlo, ha, hv, (memWfFrom_cons _ _ _).2 ⟨hlt, h2, h3, h4⟩⟩
    · split
      · rename_i heq
        subst heq
        split
        · exact memWfFrom_mono (by omega) h4
        · rename_i hv
          exact (memWfFrom_cons _ _ _).2 ⟨hlo, ha, hv, h4⟩
      · exact (memWfFrom_cons _ _ _).2 ⟨h1, h2, h3, ih h4 (by omega)⟩

/-- A write keeps the canonical form. -/
theorem memWf_memWrite {a : Nat} {m : List Host.Cell} {v : Byte} (hm : memWf m = true) (ha : a < 2 ^ 20) :
    memWf (memWrite m a v) = true := memWfFrom_memWrite hm (Nat.zero_le a) ha

/-- A read at the address written gives the byte written. -/
theorem memRead_memWrite_same {lo a : Nat} {m : List Host.Cell} {v : Byte} (hm : memWfFrom lo m = true) :
    memRead (memWrite m a v) a = v := by
  induction m generalizing lo with
  | nil =>
    unfold memWrite
    split
    · rename_i hv; simp [memRead, hv]
    · simp [memRead]
  | cons c m ih =>
    rw [memWfFrom_cons] at hm
    simp only [memWrite]
    split
    · split
      · rename_i hlt hv
        have hc : a ≠ c.1 := by omega
        simp only [memRead, hc, if_false, hv]
        exact memRead_below hm.2.2.2 (by omega)
      · simp [memRead]
    · split
      · rename_i heq
        subst heq
        split
        · rename_i hv
          rw [hv]
          exact memRead_below hm.2.2.2 (by omega)
        · simp [memRead]
      · rename_i hne
        simp only [memRead, hne, if_false]
        exact ih hm.2.2.2

/-- A read elsewhere gives what it gave before. -/
theorem memRead_memWrite_other {a c : Nat} {m : List Host.Cell} {v : Byte} (h : c ≠ a) : memRead (memWrite m a v) c = memRead m c := by
  induction m with
  | nil =>
    unfold memWrite
    split
    · rfl
    · simp [memRead, h]
  | cons p m ih =>
    simp only [memWrite]
    split
    · split
      · rfl
      · simp [memRead, h]
    · split
      · rename_i heq
        subst heq
        split <;> simp [memRead, h]
      · simp only [memRead, ih]

/-- A burst's addresses lie in the space. -/
theorem sinkAddr_lt (addr i : Nat) : sinkAddr addr i < 2 ^ 20 := Nat.mod_lt _ (by decide)

/-- A byte written at the sink keeps the canonical form. -/
theorem memWf_sinkPut {m : List Host.Cell} {a : Nat} {v : Byte} (hm : memWf m = true) (ha : a < 2 ^ 20) :
    memWf (sinkPut m a v) = true := by
  unfold sinkPut
  split <;> exact memWf_memWrite hm ha

/-- A native write at the sink keeps the canonical form. -/
theorem memWf_sinkWrite {m : List Host.Cell} {addr i : Nat} {vs : List Byte} (hm : memWf m = true) :
    memWf (sinkWrite m addr i vs) = true := by
  induction vs generalizing m i with
  | nil => exact hm
  | cons v vs ih => exact ih (memWf_sinkPut hm (sinkAddr_lt addr i))

/-- Bytes placed at the sink keep the canonical form. -/
theorem memWf_sinkPlace {m : List Host.Cell} {addr i : Nat} {vs : List Byte} (hm : memWf m = true) :
    memWf (sinkPlace m addr i vs) = true := by
  induction vs generalizing m i with
  | nil => exact hm
  | cons v vs ih => exact ih (memWf_memWrite hm (sinkAddr_lt addr i))

/-- A scenario's scripted bytes keep the canonical form. -/
theorem memWf_sinkScript {s : RefSink} {addr : Nat} (hs : memWf s.mem = true) : memWf (sinkScript s addr).mem = true := by
  unfold sinkScript
  split
  · split
    · exact hs
    · exact memWf_sinkPlace hs
  · split
    · split
      · exact hs
      · exact memWf_memWrite hs (by decide)
    · exact hs

/-- A request that reached the reference sink, whole or in part, keeps the canonical form. -/
theorem memWf_sinkAfter {s : RefSink} {q : ReqReg} {wdata : Buf} {k : Nat} (hs : memWf s.mem = true) :
    memWf (sinkAfter s q wdata k).mem = true := by
  unfold sinkAfter
  split
  · exact hs
  · split
    · split
      · exact hs
      · exact memWf_sinkScript hs
    · exact memWf_sinkWrite hs

/-- The reference sink's answer keeps the canonical form. -/
theorem memWf_sinkAnswer {s : RefSink} {q : ReqReg} {wdata stale : Buf} (hs : memWf s.mem = true) :
    memWf (sinkAnswer s q wdata stale).2.mem = true := memWf_sinkAfter hs

/-- A byte that the reply carries is the sink's, whatever the bytes it does not carry are. -/
theorem sinkRead_get {m : List Host.Cell} {addr size : Nat} {stale : Buf} {i : Fin 16} (h : i.val < size) :
    (sinkRead m addr size stale)[i] = memRead m (sinkAddr addr i.val) := by
  simp [sinkRead, h]

end Sys2Proof.Machine
end

