-- ==== Sys2Proof/Laws/State.lean ====
section
/-! SUPPORT. The small lemmas of the state's updates: for each operation that changes only some fields of the block, what every other
field reads after it. Each is true by unfolding and a simp lemma, so that no proof unfolds a record update. -/

namespace Sys2Proof.Machine

open Sys2Proof

/-! ### `log` -/

@[simp] theorem log_aux (e : Event) (b : Block) : (log e b).aux = b.aux := rfl
@[simp] theorem log_port (e : Event) (b : Block) : (log e b).port = b.port := rfl
@[simp] theorem log_ibuf (e : Event) (b : Block) : (log e b).ibuf = b.ibuf := rfl
@[simp] theorem log_store (e : Event) (b : Block) : (log e b).store = b.store := rfl
@[simp] theorem log_train (e : Event) (b : Block) : (log e b).train = b.train := rfl
@[simp] theorem log_phy (e : Event) (b : Block) : (log e b).phy = b.phy := rfl
@[simp] theorem log_sirq (e : Event) (b : Block) : (log e b).sirq = b.sirq := rfl
@[simp] theorem log_svc (e : Event) (b : Block) : (log e b).svc = b.svc := rfl
@[simp] theorem log_faults (e : Event) (b : Block) : (log e b).faults = b.faults := rfl
@[simp] theorem log_refused (e : Event) (b : Block) : (log e b).refused = b.refused := rfl
@[simp] theorem log_loc (e : Event) (b : Block) : (log e b).loc = b.loc := rfl
@[simp] theorem log_env (e : Event) (b : Block) : (log e b).env = b.env := rfl
@[simp] theorem log_hist (e : Event) (b : Block) : (log e b).hist = b.hist ++ [e] := rfl

/-! ### `raise` -/

@[simp] theorem raise_aux (f : Fault) (b : Block) : (raise f b).aux = b.aux := rfl
@[simp] theorem raise_port (f : Fault) (b : Block) : (raise f b).port = b.port := rfl
@[simp] theorem raise_ibuf (f : Fault) (b : Block) : (raise f b).ibuf = b.ibuf := rfl
@[simp] theorem raise_store (f : Fault) (b : Block) : (raise f b).store = b.store := rfl
@[simp] theorem raise_train (f : Fault) (b : Block) : (raise f b).train = b.train := rfl
@[simp] theorem raise_phy (f : Fault) (b : Block) : (raise f b).phy = b.phy := rfl
@[simp] theorem raise_sirq (f : Fault) (b : Block) : (raise f b).sirq = b.sirq := rfl
@[simp] theorem raise_svc (f : Fault) (b : Block) : (raise f b).svc = b.svc := rfl
@[simp] theorem raise_refused (f : Fault) (b : Block) : (raise f b).refused = b.refused := rfl
@[simp] theorem raise_hist (f : Fault) (b : Block) : (raise f b).hist = b.hist := rfl
@[simp] theorem raise_loc (f : Fault) (b : Block) : (raise f b).loc = b.loc := rfl
@[simp] theorem raise_env (f : Fault) (b : Block) : (raise f b).env = b.env := rfl
@[simp] theorem raise_faults (f : Fault) (b : Block) : (raise f b).faults = b.faults.add f := rfl

/-! ### `beginService` -/

@[simp] theorem beginService_aux (b : Block) : (beginService b).aux = b.aux := rfl
@[simp] theorem beginService_port (b : Block) : (beginService b).port = b.port := rfl
@[simp] theorem beginService_ibuf (b : Block) : (beginService b).ibuf = b.ibuf := rfl
@[simp] theorem beginService_store (b : Block) : (beginService b).store = b.store := rfl
@[simp] theorem beginService_train (b : Block) : (beginService b).train = b.train := rfl
@[simp] theorem beginService_phy (b : Block) : (beginService b).phy = b.phy := rfl
@[simp] theorem beginService_sirq (b : Block) : (beginService b).sirq = b.sirq := rfl
@[simp] theorem beginService_faults (b : Block) : (beginService b).faults = b.faults := rfl
@[simp] theorem beginService_refused (b : Block) : (beginService b).refused = b.refused := rfl
@[simp] theorem beginService_hist (b : Block) : (beginService b).hist = b.hist := rfl
@[simp] theorem beginService_loc (b : Block) : (beginService b).loc = b.loc := rfl
@[simp] theorem beginService_env (b : Block) : (beginService b).env = b.env := rfl
@[simp] theorem beginService_pending (b : Block) : (beginService b).svc.pending = false := rfl
@[simp] theorem beginService_active (b : Block) : (beginService b).svc.active = true := rfl

/-! ### `quietBoundary` -/

@[simp] theorem quietBoundary_aux (b : Block) : (quietBoundary b).aux = b.aux := rfl
@[simp] theorem quietBoundary_port (b : Block) : (quietBoundary b).port = b.port := rfl
@[simp] theorem quietBoundary_ibuf (b : Block) : (quietBoundary b).ibuf = b.ibuf := rfl
@[simp] theorem quietBoundary_store (b : Block) : (quietBoundary b).store = b.store := rfl
@[simp] theorem quietBoundary_train (b : Block) : (quietBoundary b).train = b.train := rfl
@[simp] theorem quietBoundary_phy (b : Block) : (quietBoundary b).phy = b.phy := rfl
@[simp] theorem quietBoundary_sirq (b : Block) : (quietBoundary b).sirq = b.sirq := rfl
@[simp] theorem quietBoundary_faults (b : Block) : (quietBoundary b).faults = b.faults := rfl
@[simp] theorem quietBoundary_refused (b : Block) : (quietBoundary b).refused = b.refused := rfl
@[simp] theorem quietBoundary_hist (b : Block) : (quietBoundary b).hist = b.hist := rfl
@[simp] theorem quietBoundary_loc (b : Block) : (quietBoundary b).loc = b.loc := rfl
@[simp] theorem quietBoundary_active (b : Block) : (quietBoundary b).svc.active = b.svc.active := rfl

/-! ### `requestService` -/

@[simp] theorem requestService_aux (b : Block) : (requestService b).aux = b.aux := rfl
@[simp] theorem requestService_port (b : Block) : (requestService b).port = b.port := rfl
@[simp] theorem requestService_ibuf (b : Block) : (requestService b).ibuf = b.ibuf := rfl
@[simp] theorem requestService_store (b : Block) : (requestService b).store = b.store := rfl
@[simp] theorem requestService_train (b : Block) : (requestService b).train = b.train := rfl
@[simp] theorem requestService_phy (b : Block) : (requestService b).phy = b.phy := rfl
@[simp] theorem requestService_sirq (b : Block) : (requestService b).sirq = b.sirq := rfl
@[simp] theorem requestService_faults (b : Block) : (requestService b).faults = b.faults := rfl
@[simp] theorem requestService_refused (b : Block) : (requestService b).refused = b.refused := rfl
@[simp] theorem requestService_hist (b : Block) : (requestService b).hist = b.hist := rfl
@[simp] theorem requestService_loc (b : Block) : (requestService b).loc = b.loc := rfl
@[simp] theorem requestService_env (b : Block) : (requestService b).env = b.env := rfl
@[simp] theorem requestService_pending (b : Block) : (requestService b).svc.pending = true := rfl
@[simp] theorem requestService_active (b : Block) : (requestService b).svc.active = b.svc.active := rfl

/-! ### `returning` and `halted` -/

@[simp] theorem returning_fst (st : Status) (b : Block) : (returning st b).1 = .ret := rfl
@[simp] theorem returning_ret (st : Status) (b : Block) : (returning st b).2.loc.ret = st := rfl
@[simp] theorem halted_fst (f : Fault) (b : Block) : (halted f b).1 = .halt := rfl
@[simp] theorem halted_snd (f : Fault) (b : Block) : (halted f b).2 = raise f b := rfl

@[simp] theorem returning_aux (st : Status) (b : Block) : (returning st b).2.aux = b.aux := rfl
@[simp] theorem returning_port (st : Status) (b : Block) : (returning st b).2.port = b.port := rfl
@[simp] theorem returning_ibuf (st : Status) (b : Block) : (returning st b).2.ibuf = b.ibuf := rfl
@[simp] theorem returning_store (st : Status) (b : Block) : (returning st b).2.store = b.store := rfl
@[simp] theorem returning_train (st : Status) (b : Block) : (returning st b).2.train = b.train := rfl
@[simp] theorem returning_phy (st : Status) (b : Block) : (returning st b).2.phy = b.phy := rfl
@[simp] theorem returning_sirq (st : Status) (b : Block) : (returning st b).2.sirq = b.sirq := rfl
@[simp] theorem returning_svc (st : Status) (b : Block) : (returning st b).2.svc = b.svc := rfl
@[simp] theorem returning_faults (st : Status) (b : Block) : (returning st b).2.faults = b.faults := rfl
@[simp] theorem returning_refused (st : Status) (b : Block) : (returning st b).2.refused = b.refused := rfl
@[simp] theorem returning_hist (st : Status) (b : Block) : (returning st b).2.hist = b.hist := rfl
@[simp] theorem returning_env (st : Status) (b : Block) : (returning st b).2.env = b.env := rfl

/-! ### `endCommand` -/

@[simp] theorem endCommand_aux (b : Block) : (endCommand b).aux = b.aux := rfl
@[simp] theorem endCommand_ibuf (b : Block) : (endCommand b).ibuf = b.ibuf := rfl
@[simp] theorem endCommand_store (b : Block) : (endCommand b).store = b.store := rfl
@[simp] theorem endCommand_phy (b : Block) : (endCommand b).phy = b.phy := rfl
@[simp] theorem endCommand_sirq (b : Block) : (endCommand b).sirq = b.sirq := rfl
@[simp] theorem endCommand_svc (b : Block) : (endCommand b).svc = b.svc := rfl
@[simp] theorem endCommand_faults (b : Block) : (endCommand b).faults = b.faults := rfl
@[simp] theorem endCommand_refused (b : Block) : (endCommand b).refused = b.refused := rfl
@[simp] theorem endCommand_loc (b : Block) : (endCommand b).loc = b.loc := rfl
@[simp] theorem endCommand_env (b : Block) : (endCommand b).env = b.env := rfl
@[simp] theorem endCommand_hist (b : Block) : (endCommand b).hist = b.hist ++ [.cmdEnd b.loc.ret] := rfl
@[simp] theorem endCommand_resStatus (b : Block) : (endCommand b).port.resStatus = b.loc.ret.code := rfl
@[simp] theorem endCommand_hcmd (b : Block) : (endCommand b).port.hcmd = b.port.hcmd := rfl
@[simp] theorem endCommand_hbuf (b : Block) : (endCommand b).port.hbuf = b.port.hbuf := rfl
@[simp] theorem endCommand_hbufWritten (b : Block) : (endCommand b).port.hbufWritten = b.port.hbufWritten := rfl
@[simp] theorem endCommand_resReply (b : Block) : (endCommand b).port.resReply = b.port.resReply := rfl
@[simp] theorem endCommand_resPayload (b : Block) : (endCommand b).port.resPayload = b.port.resPayload := rfl
@[simp] theorem endCommand_resParam (b : Block) : (endCommand b).port.resParam = b.port.resParam := rfl
@[simp] theorem endCommand_sessionParam (b : Block) : (endCommand b).train.sessionParam = b.train.sessionParam := rfl
@[simp] theorem endCommand_phase (b : Block) : (endCommand b).train.phase = b.train.phase := rfl
@[simp] theorem endCommand_status (b : Block) : (endCommand b).train.status = b.train.status := rfl
@[simp] theorem endCommand_retry (b : Block) : (endCommand b).train.retry = b.train.retry := rfl
@[simp] theorem endCommand_notUpdated (b : Block) : (endCommand b).train.notUpdated = b.train.notUpdated := rfl
@[simp] theorem endCommand_cap (b : Block) : (endCommand b).train.cap = b.train.cap := rfl
@[simp] theorem endCommand_lstat (b : Block) : (endCommand b).train.lstat = b.train.lstat := rfl
@[simp] theorem endCommand_eqTps (b : Block) : (endCommand b).train.eqTps = b.train.eqTps := rfl
@[simp] theorem endCommand_resultValid (b : Block) : (endCommand b).train.resultValid = b.train.resultValid := rfl
@[simp] theorem endCommand_result (b : Block) : (endCommand b).train.result = b.train.result := rfl
@[simp] theorem endCommand_micro (b : Block) : (endCommand b).train.micro = none := rfl

/-! ### `hwOp` -/

@[simp] theorem hwOp_aux (c : HwCmd) (b : Block) : (hwOp c b).aux = b.aux := rfl
@[simp] theorem hwOp_port (c : HwCmd) (b : Block) : (hwOp c b).port = b.port := rfl
@[simp] theorem hwOp_ibuf (c : HwCmd) (b : Block) : (hwOp c b).ibuf = b.ibuf := rfl
@[simp] theorem hwOp_store (c : HwCmd) (b : Block) : (hwOp c b).store = b.store := rfl
@[simp] theorem hwOp_train (c : HwCmd) (b : Block) : (hwOp c b).train = b.train := rfl
@[simp] theorem hwOp_sirq (c : HwCmd) (b : Block) : (hwOp c b).sirq = b.sirq := rfl
@[simp] theorem hwOp_svc (c : HwCmd) (b : Block) : (hwOp c b).svc = b.svc := rfl
@[simp] theorem hwOp_faults (c : HwCmd) (b : Block) : (hwOp c b).faults = b.faults := rfl
@[simp] theorem hwOp_refused (c : HwCmd) (b : Block) : (hwOp c b).refused = b.refused := rfl

/-! ### `writeHbuf` -/

@[simp] theorem writeHbuf_aux (i : Fin 16) (v : Byte) (b : Block) : (writeHbuf i v b).aux = b.aux := rfl
@[simp] theorem writeHbuf_ibuf (i : Fin 16) (v : Byte) (b : Block) : (writeHbuf i v b).ibuf = b.ibuf := rfl
@[simp] theorem writeHbuf_store (i : Fin 16) (v : Byte) (b : Block) : (writeHbuf i v b).store = b.store := rfl
@[simp] theorem writeHbuf_train (i : Fin 16) (v : Byte) (b : Block) : (writeHbuf i v b).train = b.train := rfl
@[simp] theorem writeHbuf_phy (i : Fin 16) (v : Byte) (b : Block) : (writeHbuf i v b).phy = b.phy := rfl
@[simp] theorem writeHbuf_sirq (i : Fin 16) (v : Byte) (b : Block) : (writeHbuf i v b).sirq = b.sirq := rfl
@[simp] theorem writeHbuf_svc (i : Fin 16) (v : Byte) (b : Block) : (writeHbuf i v b).svc = b.svc := rfl
@[simp] theorem writeHbuf_faults (i : Fin 16) (v : Byte) (b : Block) : (writeHbuf i v b).faults = b.faults := rfl
@[simp] theorem writeHbuf_refused (i : Fin 16) (v : Byte) (b : Block) : (writeHbuf i v b).refused = b.refused := rfl
@[simp] theorem writeHbuf_hist (i : Fin 16) (v : Byte) (b : Block) : (writeHbuf i v b).hist = b.hist := rfl
@[simp] theorem writeHbuf_loc (i : Fin 16) (v : Byte) (b : Block) : (writeHbuf i v b).loc = b.loc := rfl
@[simp] theorem writeHbuf_env (i : Fin 16) (v : Byte) (b : Block) : (writeHbuf i v b).env = b.env := rfl
@[simp] theorem writeHbuf_hbuf (i : Fin 16) (v : Byte) (b : Block) : (writeHbuf i v b).port.hbuf = b.port.hbuf.set i v := rfl
@[simp] theorem writeHbuf_written (i : Fin 16) (v : Byte) (b : Block) :
    (writeHbuf i v b).port.hbufWritten = b.port.hbufWritten.set i true := rfl

/-! ### Records of the block -/

@[simp] theorem adjust_sessionParam (t : TrainRegs) : (adjust t).sessionParam = t.sessionParam := rfl
@[simp] theorem adjust_phase (t : TrainRegs) : (adjust t).phase = t.phase := rfl
@[simp] theorem adjust_retry (t : TrainRegs) : (adjust t).retry = t.retry := rfl
@[simp] theorem adjust_curLanes (t : TrainRegs) : (adjust t).status.curLanes = t.status.curLanes := rfl
@[simp] theorem adjust_curRate (t : TrainRegs) : (adjust t).status.curRate = t.status.curRate := rfl
@[simp] theorem negotiate_curLanes (s : LinkPhyStatus) : (negotiate s).curLanes = s.curLanes := rfl
@[simp] theorem negotiate_curRate (s : LinkPhyStatus) : (negotiate s).curRate = s.curRate := rfl
@[simp] theorem negotiate_swing (s : LinkPhyStatus) : (negotiate s).swing = s.swing := rfl
@[simp] theorem negotiate_preemp (s : LinkPhyStatus) : (negotiate s).preemp = s.preemp := rfl
@[simp] theorem negotiate_fecActive (s : LinkPhyStatus) : (negotiate s).fecActive = s.fecActive := rfl
@[simp] theorem sigStore_defaultParam (st : ParamStore) (r s p : BitVec 2) (c : SigCodes) :
    (sigStore st r s p c).defaultParam = st.defaultParam := rfl
@[simp] theorem sigStore_configLocked (st : ParamStore) (r s p : BitVec 2) (c : SigCodes) :
    (sigStore st r s p c).configLocked = st.configLocked := rfl

/-! ### Host actions -/

@[simp] theorem accepted_seq (w : CommandWord) (i : Instr) (rest : List HostAction) (s : State) :
    (accepted w i rest s).seq = s.seq := rfl
@[simp] theorem accepted_host (w : CommandWord) (i : Instr) (rest : List HostAction) (s : State) :
    (accepted w i rest s).host = rest := rfl
@[simp] theorem betweenCommands_host (s : State) : (betweenCommands s).host = s.host := rfl
@[simp] theorem refusedWord_refused (rest : List HostAction) (s : State) : (refusedWord rest s).blk.refused = true := rfl

end Sys2Proof.Machine
end

