-- ==== Sys2Proof/Laws/Ops.lean ====
section
/-! SUPPORT. What each shared operation can do, said once: the AUX issue and completion, the agents' answers, a checked access, a PHY
command, the ladder's step, and the host's transfer (spec/40_aux_engine.md R120 to R151; spec/42_link_training.md R215, R216). -/

namespace Sys2Proof.Machine

/-! ### Requests -/

/-- A request that passes validation (R121 to R125): its direction is named, its size is at most 16, and the shape rules hold. -/
theorem validRw_some {q : Request} {rw : Rw} (h : validRw q = some rw) :
    rwOf q.rw = some rw ∧ q.size ≤ 16#8 ∧ (q.isI2c = false → q.isMot = false ∧ q.size ≠ 0 ∧ rw ≠ .wsu) := by
  unfold validRw at h
  split at h
  · cases h
  · rename_i rw' hrw
    split at h
    · cases h
    · split at h
      · cases h
      · split at h
        · cases h
        · split at h
          · cases h
          · rename_i h1 h2 h3 h4
            cases h
            refine ⟨hrw, ?_, ?_⟩
            · simpa [Config.auxMaxSize, BitVec.not_lt] using h1
            · intro hi
              simp only [hi, Bool.not_false, Bool.true_and, Bool.not_eq_true] at h2 h3
              refine ⟨h2, by simpa using h3, ?_⟩
              rintro rfl
              simp_all

/-- The word of a formatted request of size at most 16 is legal (R83, R84, R126). -/
theorem format_legal {q : Request} {rw : Rw} (h : q.size ≤ 16#8) : (format q rw).Legal := ⟨h, rfl, q.addr, rfl⟩

/-! ### The issue (R126, R127) -/

/-- An issue while a transaction is in flight. -/
theorem auxIssue_wait {q : Request} {rw : Rw} {buf : Buf} {b : Block} (h : b.aux.fsm = .wait) :
    auxIssue q rw buf b = halted .overlappingTransfer b := by
  simp only [auxIssue, h]

/-- An issue when none is: the request register, the write data, the engine flags and the event. -/
theorem auxIssue_idle {q : Request} {rw : Rw} {buf : Buf} {b : Block} (h : b.aux.fsm = .idle) :
    auxIssue q rw buf b =
      (.norm, log (.auxIssue (format q rw).word (format q rw).addrOnly (sentBytes rw q.size buf))
        { b with
          aux.req := format q rw
          aux.wdata := b.aux.wdata.put (sentBytes rw q.size buf)
          aux.replyValid := false
          aux.completion := false
          aux.fsm := .wait }) := by
  simp only [auxIssue, h]

/-! ### The answer (R128, R129) -/

/-- An answer ends the transaction. -/
@[simp] theorem takeAnswer_fsm (a : AuxAnswer) (b : Block) : (takeAnswer a b).aux.fsm = .idle := by cases a <;> rfl
@[simp] theorem takeAnswer_req (a : AuxAnswer) (b : Block) : (takeAnswer a b).aux.req = b.aux.req := by cases a <;> rfl
@[simp] theorem takeAnswer_wdata (a : AuxAnswer) (b : Block) : (takeAnswer a b).aux.wdata = b.aux.wdata := by cases a <;> rfl
@[simp] theorem takeAnswer_env (a : AuxAnswer) (b : Block) : (takeAnswer a b).env = b.env := by cases a <;> rfl
@[simp] theorem takeAnswer_port (a : AuxAnswer) (b : Block) : (takeAnswer a b).port = b.port := by cases a <;> rfl
@[simp] theorem takeAnswer_ibuf (a : AuxAnswer) (b : Block) : (takeAnswer a b).ibuf = b.ibuf := by cases a <;> rfl
@[simp] theorem takeAnswer_store (a : AuxAnswer) (b : Block) : (takeAnswer a b).store = b.store := by cases a <;> rfl
@[simp] theorem takeAnswer_train (a : AuxAnswer) (b : Block) : (takeAnswer a b).train = b.train := by cases a <;> rfl
@[simp] theorem takeAnswer_phy (a : AuxAnswer) (b : Block) : (takeAnswer a b).phy = b.phy := by cases a <;> rfl
@[simp] theorem takeAnswer_sirq (a : AuxAnswer) (b : Block) : (takeAnswer a b).sirq = b.sirq := by cases a <;> rfl
@[simp] theorem takeAnswer_svc (a : AuxAnswer) (b : Block) : (takeAnswer a b).svc = b.svc := by cases a <;> rfl
@[simp] theorem takeAnswer_faults (a : AuxAnswer) (b : Block) : (takeAnswer a b).faults = b.faults := by cases a <;> rfl
@[simp] theorem takeAnswer_refused (a : AuxAnswer) (b : Block) : (takeAnswer a b).refused = b.refused := by cases a <;> rfl
@[simp] theorem takeAnswer_loc (a : AuxAnswer) (b : Block) : (takeAnswer a b).loc = b.loc := by cases a <;> rfl

@[simp] theorem logXfer_aux (x : Xfer) (b : Block) : (logXfer x b).aux = b.aux := by unfold logXfer; split <;> rfl
@[simp] theorem logXfer_env (x : Xfer) (b : Block) : (logXfer x b).env = b.env := by unfold logXfer; split <;> rfl
@[simp] theorem logXfer_port (x : Xfer) (b : Block) : (logXfer x b).port = b.port := by unfold logXfer; split <;> rfl
@[simp] theorem logXfer_ibuf (x : Xfer) (b : Block) : (logXfer x b).ibuf = b.ibuf := by unfold logXfer; split <;> rfl
@[simp] theorem logXfer_store (x : Xfer) (b : Block) : (logXfer x b).store = b.store := by unfold logXfer; split <;> rfl
@[simp] theorem logXfer_train (x : Xfer) (b : Block) : (logXfer x b).train = b.train := by unfold logXfer; split <;> rfl
@[simp] theorem logXfer_phy (x : Xfer) (b : Block) : (logXfer x b).phy = b.phy := by unfold logXfer; split <;> rfl
@[simp] theorem logXfer_sirq (x : Xfer) (b : Block) : (logXfer x b).sirq = b.sirq := by unfold logXfer; split <;> rfl
@[simp] theorem logXfer_svc (x : Xfer) (b : Block) : (logXfer x b).svc = b.svc := by unfold logXfer; split <;> rfl
@[simp] theorem logXfer_faults (x : Xfer) (b : Block) : (logXfer x b).faults = b.faults := by unfold logXfer; split <;> rfl
@[simp] theorem logXfer_refused (x : Xfer) (b : Block) : (logXfer x b).refused = b.refused := by unfold logXfer; split <;> rfl
@[simp] theorem logXfer_loc (x : Xfer) (b : Block) : (logXfer x b).loc = b.loc := by unfold logXfer; split <;> rfl

/-- An answer leaves its event. -/
theorem takeAnswer_hist (a : AuxAnswer) (b : Block) : (takeAnswer a b).hist = b.hist ++ [answerEvent a] := by cases a <;> rfl

/-- The completion of a transaction in flight: the agent's answer, its log, and what is done with its result. -/
theorem auxComplete_wait {k : Xfer → Block → Block} {b : Block} (h : b.aux.fsm = .wait) :
    auxComplete k b =
      let a := (b.env.nextAux b.aux.req b.aux.wdata).1
      let env' := (b.env.nextAux b.aux.req b.aux.wdata).2
      k (xferResult b.aux.req a) (logXfer (xferResult b.aux.req a) (takeAnswer a { b with env := env' })) := by
  simp only [auxComplete, h]

/-- Without a transaction in flight there is nothing to complete. -/
theorem auxComplete_idle {k : Xfer → Block → Block} {b : Block} (h : b.aux.fsm = .idle) : auxComplete k b = b := by
  simp only [auxComplete, h]

/-- A transaction's end leaves no transaction in flight, whatever was there before. -/
theorem auxComplete_fsm {k : Xfer → Block → Block} {b : Block} (hk : ∀ x c, (k x c).aux.fsm = c.aux.fsm) :
    (auxComplete k b).aux.fsm = .idle := by
  cases h : b.aux.fsm with
  | idle => rw [auxComplete_idle h, h]
  | wait => rw [auxComplete_wait h]; simp [hk]

/-- A payload that is accepted is at most the request's size (R132). -/
theorem acceptedPayload_le {r : ReplyStatus} {rw : Rw} {size p : Byte} (h : acceptedPayload r rw size = some p) : p ≤ size := by
  unfold acceptedPayload at h
  split at h
  · cases h
  · split at h
    · cases h
    · split at h
      · cases h
      · cases h
        simpa [BitVec.not_lt] using ‹¬size < _›

/-! ### The agents' answers (R7) -/

/-- An answer that is fixed is the one taken. -/
theorem nextAux_cons {e : Env} {a : AuxAnswer} {as : List AuxAnswer} (h : e.aux = a :: as) (q : ReqReg) (w : Buf) :
    e.nextAux q w = (a, { e with aux := as }.overrule q w) := by
  simp only [Env.nextAux, h]

/-- An answer overrules nothing where there is no reference sink. -/
theorem overrule_noSink {e : Env} (h : e.sink = none) (q : ReqReg) (w : Buf) : e.overrule q w = e := by
  simp only [Env.overrule, h]

/-- Overruling the reference sink leaves the other agents and the answers to come as they were. -/
@[simp] theorem overrule_aux (e : Env) (q : ReqReg) (w : Buf) : (e.overrule q w).aux = e.aux := by
  unfold Env.overrule Env.nextActed
  split
  · rfl
  · split <;> rfl
@[simp] theorem overrule_phy (e : Env) (q : ReqReg) (w : Buf) : (e.overrule q w).phy = e.phy := by
  unfold Env.overrule Env.nextActed
  split
  · rfl
  · split <;> rfl
@[simp] theorem overrule_phyReady (e : Env) (q : ReqReg) (w : Buf) : (e.overrule q w).phyReady = e.phyReady := by
  unfold Env.overrule Env.nextActed
  split
  · rfl
  · split <;> rfl
@[simp] theorem overrule_irq (e : Env) (q : ReqReg) (w : Buf) : (e.overrule q w).irq = e.irq := by
  unfold Env.overrule Env.nextActed
  split
  · rfl
  · split <;> rfl
@[simp] theorem overrule_irqQuiet (e : Env) (q : ReqReg) (w : Buf) : (e.overrule q w).irqQuiet = e.irqQuiet := by
  unfold Env.overrule Env.nextActed
  split
  · rfl
  · split <;> rfl
@[simp] theorem overrule_irqCount (e : Env) (q : ReqReg) (w : Buf) : (e.overrule q w).irqCount = e.irqCount := by
  unfold Env.overrule Env.nextActed
  split
  · rfl
  · split <;> rfl

/-- An overruled reference sink keeps its canonical form. -/
theorem overrule_sinkWf {e : Env} (h : SinkWf e) (q : ReqReg) (w : Buf) : SinkWf (e.overrule q w) := by
  unfold Env.overrule
  split
  · exact h
  · rename_i k hk
    rintro k' ⟨rfl⟩
    exact memWf_sinkAfter (h _ hk)

/-- The agent's answer keeps the reference sink's canonical form. -/
theorem nextAux_sinkWf {e : Env} (h : SinkWf e) (q : ReqReg) (w : Buf) : SinkWf (e.nextAux q w).2 := by
  unfold Env.nextAux
  split
  · rename_i as _
    exact overrule_sinkWf (e := { e with aux := as }) h q w
  · dsimp only
    split
    · rename_i k hk
      rintro k' ⟨rfl⟩
      exact memWf_sinkAnswer (h _ hk)
    · exact h

/-- The PHY's answer leaves the sink alone. -/
theorem nextPhy_sink (e : Env) : e.nextPhy.2.sink = e.sink := by
  unfold Env.nextPhy
  split
  · rfl
  · split <;> rfl

/-- The boundary's choice leaves the sink alone. -/
theorem nextBoundary_sink (e : Env) : e.nextBoundary.2.sink = e.sink := by
  unfold Env.nextBoundary
  split
  · rfl
  · split <;> rfl

/-! ### A checked access (R149 to R151) -/

/-- A successful access stores into the training registers, the sink record or the locals only. -/
theorem store_fsm (a : Access) (b : Block) : (a.store b).aux = b.aux := by cases a <;> rfl
theorem store_port (a : Access) (b : Block) : (a.store b).port = b.port := by cases a <;> rfl
theorem store_phy (a : Access) (b : Block) : (a.store b).phy = b.phy := by cases a <;> rfl
theorem store_store (a : Access) (b : Block) : (a.store b).store = b.store := by cases a <;> rfl
theorem store_faults (a : Access) (b : Block) : (a.store b).faults = b.faults := by cases a <;> rfl
theorem store_refused (a : Access) (b : Block) : (a.store b).refused = b.refused := by cases a <;> rfl
theorem store_hist (a : Access) (b : Block) : (a.store b).hist = b.hist := by cases a <;> rfl
theorem store_svc (a : Access) (b : Block) : (a.store b).svc = b.svc := by cases a <;> rfl
theorem store_env (a : Access) (b : Block) : (a.store b).env = b.env := by cases a <;> rfl

/-- What a wrapper does with a result leaves the engine alone. -/
theorem accessResult_aux (a : Access) (x : Xfer) (b : Block) : (accessResult a x b).aux = b.aux := by
  unfold accessResult
  split
  · rw [store_fsm]
  · rfl

/-- A wrapper's issue with no transaction in flight. -/
theorem accessIssue_idle {a : Access} {b : Block} (h : b.aux.fsm = .idle) :
    accessIssue a b =
      (.norm, { (auxIssue a.request a.rw (b.ibuf.put (a.data b)) b).2 with ibuf := b.ibuf.put (a.data b) }) := by
  simp only [accessIssue, auxIssue_idle h]

/-- A wrapper's completion leaves no transaction in flight. -/
theorem accessComplete_fsm (a : Access) (b : Block) : (accessComplete a b).aux.fsm = .idle :=
  auxComplete_fsm fun x c => by rw [accessResult_aux]

/-! ### The ladder (R215, R216) -/

/-- The three cases of the ladder's step. -/
theorem fallback_cases (t : TrainRegs) :
    (t.status.curRate ≠ 0 ∧ fallback t = (retryWith t t.status.curLanes (t.status.curRate - 1), .retry)) ∨
      (∃ n, t.status.curRate = 0 ∧ nextLanes t.status.curLanes = some n ∧
        fallback t = (retryWith t n t.sessionParam.initRate, .retry)) ∨
      (t.status.curRate = 0 ∧ t.status.curLanes = .one ∧ fallback t = ({ t with phase := .failedPending }, .fatal)) := by
  unfold fallback
  by_cases h : t.status.curRate = 0
  · right
    cases hl : t.status.curLanes <;> simp [h, nextLanes]
  · exact .inl ⟨h, if_neg h⟩

end Sys2Proof.Machine
end

