-- ==== Sys2Proof/Laws/Engine.lean ====
section
/-! SUPPORT. What a piece of the sequencer's code does follows from what its atoms do: one rule for all codes, loops and routines,
for the service and for the boundary (spec/00_scope.md R6; spec/60_exceptions.md R262). -/

namespace Sys2Proof.Machine

/-! ### Code -/

/-- `P` holds of every atom of the code: of every part that is not a sequence, a test, a loop or a routine. -/
def Code.Atoms (P : Code → Prop) : Code → Prop
  | .cond _ c d => c.Atoms P ∧ d.Atoms P
  | .seq c d => c.Atoms P ∧ d.Atoms P
  | .loop _ c => c.Atoms P
  | .call c => c.Atoms P
  | .skip => P .skip
  | .first a => P (.first a)
  | .act a => P (.act a)
  | .access a => P (.access a)
  | .mark m => P (.mark m)
  | .brk => P .brk
  | .ret st => P (.ret st)
  | .retSt => P .retSt
  | .fault f => P (.fault f)

/-- What is known of running a piece of code from states with `I`: how it may end, that `I` holds again, and how the states are
related. -/
def Runs (I : Block → Prop) (Q : Sig → Prop) (R : Block → Block → Prop) (p : Block → Sig × Block) : Prop :=
  ∀ b, I b → Q (p b).1 ∧ I (p b).2 ∧ R b (p b).2

/-- A loop does what its body does. -/
theorem iterate_runs {I : Block → Prop} {Q : Sig → Prop} {R : Block → Block → Prop} (hQ : Q .norm) (refl : ∀ b, R b b)
    (trans : ∀ a b c, R a b → R b c → R a c) {p : Block → Sig × Block} (hp : Runs I Q R p) :
    ∀ n, Runs I Q R (iterate p n) := by
  intro n
  induction n with
  | zero => exact fun b hb => ⟨hQ, hb, refl b⟩
  | succ n ih =>
    intro b hb
    obtain ⟨h1, h2, h3⟩ := hp b hb
    simp only [iterate]
    split
    · rename_i heq
      rw [heq] at h1 h2 h3
      obtain ⟨k1, k2, k3⟩ := ih _ h2
      exact ⟨k1, k2, trans _ _ _ h3 k3⟩
    · rename_i heq
      rw [heq] at h2 h3
      exact ⟨hQ, h2, h3⟩
    · exact ⟨h1, h2, h3⟩

/-- The rule for all codes: what every atom does, the code does. -/
theorem runCode_runs {hook : Block → Block} {P : Code → Prop} {I : Block → Prop} {Q : Sig → Prop} {R : Block → Block → Prop}
    (hQ : Q .norm) (refl : ∀ b, R b b) (trans : ∀ a b c, R a b → R b c → R a c)
    (atoms : ∀ c, P c → Runs I Q R (runCode hook c)) : ∀ c : Code, c.Atoms P → Runs I Q R (runCode hook c) := by
  intro c
  induction c with
  | cond t c d ihc ihd =>
    intro h b hb
    simp only [runCode]
    split
    · exact ihc h.1 b hb
    · exact ihd h.2 b hb
  | seq c d ihc ihd =>
    intro h b hb
    obtain ⟨h1, h2, h3⟩ := ihc h.1 b hb
    simp only [runCode]
    split
    · rename_i heq
      rw [heq] at h1 h2 h3
      obtain ⟨k1, k2, k3⟩ := ihd h.2 _ h2
      exact ⟨k1, k2, trans _ _ _ h3 k3⟩
    · exact ⟨h1, h2, h3⟩
  | loop n c ih => exact fun h => iterate_runs hQ refl trans (ih h) n
  | call c ih =>
    intro h b hb
    obtain ⟨h1, h2, h3⟩ := ih h b hb
    simp only [runCode]
    split
    · rename_i heq
      rw [heq] at h2 h3
      exact ⟨hQ, h2, h3⟩
    · exact ⟨h1, h2, h3⟩
  | _ => exact fun h => atoms _ h

/-! ### Accesses -/

/-- One transaction of a wrapper does what its two micro-steps and their boundaries do. -/
theorem accessOnce_runs {hook : Block → Block} {a : Access} {I J : Block → Prop} {Q : Sig → Prop} {R : Block → Block → Prop}
    (trans : ∀ a b c, R a b → R b c → R a c) (hI : ∀ b, I b → I (hook b) ∧ R b (hook b))
    (hJ : ∀ b, J b → J (hook b) ∧ R b (hook b))
    (issue : ∀ b, I b → (runAct (.issue a) b).1 = .norm ∧ J (runAct (.issue a) b).2 ∧ R b (runAct (.issue a) b).2)
    (complete : Runs J Q R (runAct (.complete a))) (back : ∀ b, J b → I (runAct (.complete a) b).2) :
    Runs I Q R (accessOnce hook a) := by
  intro b hb
  obtain ⟨h1, h2⟩ := hI b hb
  obtain ⟨h3, h4, h5⟩ := issue _ h1
  obtain ⟨h6, h7⟩ := hJ _ h4
  have h8 := complete _ h6
  have h9 := back _ h6
  have : accessOnce hook a b = runAct (.complete a) (hook (runAct (.issue a) (hook b)).2) := by
    have h : runAct (.issue a) (hook b) = (.norm, (runAct (.issue a) (hook b)).2) := Prod.ext h3 rfl
    rw [accessOnce, h]
  rw [this]
  exact ⟨h8.1, h9, trans _ _ _ h2 (trans _ _ _ h5 (trans _ _ _ h7 h8.2.2))⟩

/-- A checked access does what each of its transactions does (R149). -/
theorem runAccess_runs {hook : Block → Block} {a : Access} {I : Block → Prop} {Q : Sig → Prop} {R : Block → Block → Prop}
    (hQ : Q .norm) (refl : ∀ b, R b b) (trans : ∀ a b c, R a b → R b c → R a c) (once : Runs I Q R (accessOnce hook a)) :
    Runs I Q R (runAccess hook a) := by
  have retry : ∀ n, Runs I Q R (accessRetry hook a n) := by
    intro n
    induction n with
    | zero => exact fun b hb => ⟨hQ, hb, refl b⟩
    | succ n ih =>
      intro b hb
      obtain ⟨h1, h2, h3⟩ := once b hb
      simp only [accessRetry]
      split
      · rename_i heq
        rw [heq] at h2 h3
        split
        · obtain ⟨k1, k2, k3⟩ := ih _ h2
          exact ⟨k1, k2, trans _ _ _ h3 k3⟩
        · exact ⟨hQ, h2, h3⟩
      · exact ⟨h1, h2, h3⟩
  intro b hb
  obtain ⟨h1, h2, h3⟩ := once b hb
  simp only [runAccess]
  split
  · rename_i heq
    rw [heq] at h2 h3
    split
    · obtain ⟨k1, k2, k3⟩ := retry _ _ h2
      exact ⟨k1, k2, trans _ _ _ h3 k3⟩
    · exact ⟨hQ, h2, h3⟩
  · exact ⟨h1, h2, h3⟩

/-! ### The boundary (R262) -/

/-- A boundary does what its draw and the services it takes do. -/
theorem boundary_keeps {R : Block → Block → Prop} (refl : ∀ b, R b b) (trans : ∀ a b c, R a b → R b c → R a c)
    (draw : ∀ b, R b (drawBoundary b).2) (service : ∀ b, serviceAdmitted b = true → R b (runService b)) :
    ∀ b, R b (boundary b) := by
  have h : ∀ n b, R b (serve n b) := by
    intro n
    induction n with
    | zero => exact refl
    | succ n ih =>
      intro b
      simp only [serve]
      split
      · rename_i hs
        exact trans _ _ _ (service b hs) (ih _)
      · exact refl b
  exact fun b => trans _ _ _ (draw b) (h _ _)

/-- No service is taken while a transaction is in flight or a service runs (R262, R264, R266). -/
theorem serve_closed {n : Nat} {b : Block} (h : serviceAdmitted b = false) : serve n b = b := by
  cases n <;> simp [serve, h]

/-- A quiet source with nothing pending chooses nothing. -/
theorem drawBoundary_quiet {b : Block} (h : Quiet b) : drawBoundary b = (.times 0, b) := by
  obtain ⟨h1, h2, h3⟩ := h
  simp only [drawBoundary, Env.nextBoundary, h2, h3, if_true, h1, Bool.or_false]
  rw [← h1]

/-- A boundary with nothing pending and a quiet source is no step at all. -/
theorem boundary_quiet {b : Block} (h : Quiet b) : boundary b = b := by
  simp only [boundary, drawBoundary_quiet h, Serve.count, serve]

/-- Between commands, with nothing pending, a quiet source and no fault, nothing happens and nothing is still to be taken. -/
theorem between_quiet {b : Block} (h : Quiet b) (hf : b.faults.first? = none) : between b = (b, []) := by
  rw [between, hf, drawBoundary_quiet h, serveFrames]

/-! ### Commands -/

/-- Every command is its code, run from its acceptance to its end (R251). -/
theorem exec_eq (i : Instr) (s : State) : exec i s = runCommand (opcodeOf i) (codeOf i) s := by
  cases i <;> rfl

/-- Every command answers a next state that differs from its start in the block only. -/
theorem exec_next (i : Instr) (s : State) : ∃ b, exec i s = .next { s with blk := b } := by
  rw [exec_eq]
  exact ⟨_, rfl⟩

end Sys2Proof.Machine
end

