-- ==== Sys2Proof/Laws/PerInstr.lean ====
section
/-! SUPPORT. One law per instruction, about its encoding as syntax: the word it is written as has the fixed fields of its row of
spec/opcode_table.json (spec/30_encoding.md R81, R93). -/

namespace Sys2Proof.Laws

/-- `CMD` of an AUX request word, or the opcode of a host command word (R81, R93), as one number. -/
def FixedFields.code : CommandWord → Nat
  | .req w _ => (w.extractLsb' 28 4).toNat
  | .host w => (w.extractLsb' 0 8).toNat

/-- The value of the fixed field of the instruction's row of spec/opcode_table.json. -/
def FixedFields.row : Instr → Nat
  | .auxNr _ _ => 0x9
  | .auxNw _ _ => 0x8
  | .auxI2cr _ _ => 0x1
  | .auxI2crMot _ _ => 0x5
  | .auxI2cw _ _ => 0x0
  | .auxI2cwMot _ _ => 0x4
  | .auxI2cwsu _ _ => 0x2
  | .auxI2cwsuMot _ _ => 0x6
  | .auxTransfer _ _ _ _ _ => 0x01
  | .trainStart => 0x02
  | .trainInit => 0x03
  | .trainCr => 0x04
  | .trainEq => 0x05
  | .trainDone _ => 0x06
  | .paramGet => 0x10
  | .paramSession => 0x11
  | .paramSet _ _ => 0x12
  | .sigtabSet _ _ _ _ _ _ => 0x13
  | .sinkIrq => 0x20

/-- The encoded word has the fixed field of its row. -/
def FixedFields.Statement (i : Instr) : Prop := FixedFields.code (encode i) = FixedFields.row i

/-- The command field of an AUX request word. -/
theorem FixedFields.code_encodeReq (cmd : BitVec 4) (addr : BitVec 20) (size : Byte) :
    FixedFields.code (encodeReq cmd addr size) = cmd.toNat := by
  have h : ∀ len : Byte, (cmd ++ addr ++ len : BitVec 32).extractLsb' 28 4 = cmd := by
    intro len
    ext k hk
    simp only [BitVec.getElem_extractLsb', BitVec.getLsbD_append]
    simp [show ¬28 + k < 8 by omega, show ¬28 + k - 8 < 20 by omega, show 28 + k - 8 - 20 = k by omega, BitVec.getLsbD_eq_getElem hk]
  unfold encodeReq
  split <;> simp only [FixedFields.code, h]

/-- The opcode of a host command word built from its operands above it. -/
theorem FixedFields.code_host {n : Nat} (x : BitVec n) (opc : Byte) (w : BitVec 64) (h : w = (x ++ opc).setWidth 64) :
    FixedFields.code (.host w) = opc.toNat := by
  subst h
  have : ((x ++ opc).setWidth 64).extractLsb' 0 8 = opc := by
    ext k hk
    simp [BitVec.getElem_extractLsb', BitVec.getLsbD_append, show k < 64 by omega, hk]
  simp only [FixedFields.code, this]

theorem FixedFields.auxNr (a : BitVec 20) (s : BitVec 8) : FixedFields.Statement (.auxNr a s) := FixedFields.code_encodeReq 0x9#4 a s
theorem FixedFields.auxNw (a : BitVec 20) (s : BitVec 8) : FixedFields.Statement (.auxNw a s) := FixedFields.code_encodeReq 0x8#4 a s
theorem FixedFields.auxI2cr (a : BitVec 20) (s : BitVec 8) : FixedFields.Statement (.auxI2cr a s) := FixedFields.code_encodeReq 0x1#4 a s
theorem FixedFields.auxI2crMot (a : BitVec 20) (s : BitVec 8) : FixedFields.Statement (.auxI2crMot a s) :=
  FixedFields.code_encodeReq 0x5#4 a s
theorem FixedFields.auxI2cw (a : BitVec 20) (s : BitVec 8) : FixedFields.Statement (.auxI2cw a s) := FixedFields.code_encodeReq 0x0#4 a s
theorem FixedFields.auxI2cwMot (a : BitVec 20) (s : BitVec 8) : FixedFields.Statement (.auxI2cwMot a s) :=
  FixedFields.code_encodeReq 0x4#4 a s
theorem FixedFields.auxI2cwsu (a : BitVec 20) (s : BitVec 8) : FixedFields.Statement (.auxI2cwsu a s) :=
  FixedFields.code_encodeReq 0x2#4 a s
theorem FixedFields.auxI2cwsuMot (a : BitVec 20) (s : BitVec 8) : FixedFields.Statement (.auxI2cwsuMot a s) :=
  FixedFields.code_encodeReq 0x6#4 a s
theorem FixedFields.auxTransfer (c m : Bool) (r : BitVec 2) (s : BitVec 8) (a : BitVec 20) :
    FixedFields.Statement (.auxTransfer c m r s a) :=
  FixedFields.code_host (0#24 ++ a ++ s ++ r ++ bit m ++ bit c) 0x01#8 _ (BitVec.setWidth_eq _).symm
theorem FixedFields.trainStart : FixedFields.Statement .trainStart := by unfold FixedFields.Statement; decide
theorem FixedFields.trainInit : FixedFields.Statement .trainInit := by unfold FixedFields.Statement; decide
theorem FixedFields.trainCr : FixedFields.Statement .trainCr := by unfold FixedFields.Statement; decide
theorem FixedFields.trainEq : FixedFields.Statement .trainEq := by unfold FixedFields.Statement; decide
theorem FixedFields.trainDone (s : Bool) : FixedFields.Statement (.trainDone s) :=
  FixedFields.code_host (0#55 ++ bit s) 0x06#8 _ (BitVec.setWidth_eq _).symm
theorem FixedFields.paramGet : FixedFields.Statement .paramGet := by unfold FixedFields.Statement; decide
theorem FixedFields.paramSession : FixedFields.Statement .paramSession := by unfold FixedFields.Statement; decide
theorem FixedFields.paramSet (f v : BitVec 8) : FixedFields.Statement (.paramSet f v) :=
  FixedFields.code_host (0#40 ++ v ++ f) 0x12#8 _ (BitVec.setWidth_eq _).symm
theorem FixedFields.sigtabSet (r s p a b c : BitVec 8) : FixedFields.Statement (.sigtabSet r s p a b c) :=
  FixedFields.code_host (0#8 ++ c ++ b ++ a ++ p ++ s ++ r) 0x13#8 _ (BitVec.setWidth_eq _).symm
theorem FixedFields.sinkIrq : FixedFields.Statement .sinkIrq := by unfold FixedFields.Statement; decide

end Sys2Proof.Laws
end

