-- ==== Sys2Proof/Tests/Slice0.lean ====
section
/-! SUPPORT. Tests against the worked examples and vectors of spec/95_test_vectors.md and the examples of the rules, and the witnesses
that the hypotheses of the statements can be met. -/

namespace Sys2Proof.Tests

open Sys2Proof Sys2Proof.Machine

-- One theorem after another: the kernel's evaluations below would otherwise each hold a thread of their own.
set_option Elab.async false

/-! ### Helpers -/

/-- A parameter record: `rate`, `lanes`, levels 0, and the three enables. -/
def param (rate : BitVec 2) (lanes : LaneCount) (fec ssc ef : Bool) : LinkPhyParam :=
  { zeroParam with initRate := rate, initLanes := lanes, fecEn := fec, sscEn := ssc, enhanceFrameEn := ef, eqTps := .tps3 }

/-- A block whose PHY answers `Ok` and whose sink asks for no service, with every byte of `HBUF` written and known parameters. -/
def base : Block :=
  { Block.reset with
    env := { freeEnv with phyReady := true, irqQuiet := true }
    port := { resetPort with hbufWritten := Vector.replicate 16 true }
    store := { defaultParam := param 2 .two false true true, sigTable := Vector.replicate 64 ⟨0, 0x2A, 0⟩, configLocked := false } }

/-- The block whose AUX-channel agent gives these answers. -/
def answering (as : List AuxAnswer) (b : Block) : Block := { b with env := { b.env with aux := as } }

/-- A block inside a session: phase, lanes and rate, levels 0. -/
def inSession (ph : Phase) (lanes : LaneCount) (rate : BitVec 2) : Block :=
  { base with
    store := { base.store with configLocked := true }
    train := { base.train with
      phase := ph
      sessionParam := param rate lanes false true true
      status := { zeroStatus with curLanes := lanes, curRate := rate } } }

/-- A state with nothing running and these host actions to come. -/
def at0 (b : Block) (host : List HostAction) : State := { blk := b, seq := [], host := host }

/-- The block after one step that runs the word. -/
def after (w : CommandWord) (b : Block) : Block :=
  match step (at0 b [.run w]) with
  | .next t => t.blk
  | .fault _ => Block.reset
  | .refused _ => Block.reset

/-- The data of a reply: these bytes, then 0. -/
def data (l : List Byte) : Buf := zeroBuf.put l

/-- A reply with no error, of a type, a byte count and an AUX_M. -/
def reply (type : BitVec 4) (bytesRead auxM : Byte) (l : List Byte) : AuxAnswer :=
  .reply { ackStatus bytesRead with replyType := type, auxM := auxM } (data l)

/-- `HBUF` holding these bytes, written by the host. -/
def withBuf (l : List Byte) (b : Block) : Block := { b with port := { b.port with hbuf := b.port.hbuf.put l } }

/-- The result registers. -/
def result (b : Block) : Byte × BitVec 4 × Byte := (b.port.resStatus, b.port.resReply, b.port.resPayload)

/-- The AUX requests of the history, with their data. -/
def requests (b : Block) : List (BitVec 32 × Bool × List Byte) :=
  b.hist.filterMap fun e => match e with
    | .auxIssue w a l => some (w, a, l)
    | _ => none

/-- The reference sink with these bytes. -/
def sinkWith (m : List Host.Cell) (b : Block) : Block :=
  { b with env := { b.env with sink := some { mem := m, status := [], fec := [] } } }

/-! ### Well-formedness: an ill-formed term for each check -/

theorem test_wf_auxNr : WellFormed (.auxNr 0x00000 17) = false := by decide
theorem test_wf_auxNw : WellFormed (.auxNw 0x00000 255) = false := by decide
theorem test_wf_auxI2cr : WellFormed (.auxI2cr 0x00050 17) = false := by decide
theorem test_wf_auxI2crMot : WellFormed (.auxI2crMot 0x00050 17) = false := by decide
theorem test_wf_auxI2cw : WellFormed (.auxI2cw 0x00050 17) = false := by decide
theorem test_wf_auxI2cwMot : WellFormed (.auxI2cwMot 0x00050 17) = false := by decide
theorem test_wf_auxI2cwsu : WellFormed (.auxI2cwsu 0x00050 17) = false := by decide
theorem test_wf_auxI2cwsuMot : WellFormed (.auxI2cwsuMot 0x00050 128) = false := by decide
theorem test_wf_size16 : WellFormed (.auxNr 0xFFFFF 16) = true := by decide

/-! ### Decoding: words of spec/95 L2.1, L2.2, L2.9 and the programs -/

/-- The instruction a word decodes to. -/
def dec (w : CommandWord) : Option Instr :=
  match decode w with
  | .ok i => some i
  | .error _ => none

theorem test_decode_auxNr : dec (.req 0x90020205 false) = some (.auxNr 0x00202 6) := by decide
theorem test_decode_auxNr_top : dec (.req 0x9FFFFF00 false) = some (.auxNr 0xFFFFF 1) := by decide
theorem test_decode_auxNw : dec (.req 0x80010204 false) = some (.auxNw 0x00102 5) := by decide
theorem test_decode_auxI2cr : dec (.req 0x10005000 true) = some (.auxI2cr 0x00050 0) := by decide
theorem test_decode_auxI2crMot : dec (.req 0x5000500F false) = some (.auxI2crMot 0x00050 16) := by decide
theorem test_decode_auxI2cw : dec (.req 0x00005000 true) = some (.auxI2cw 0x00050 0) := by decide
theorem test_decode_auxI2cwMot : dec (.req 0x40005000 false) = some (.auxI2cwMot 0x00050 1) := by decide
theorem test_decode_auxI2cwsu : dec (.req 0x20005000 true) = some (.auxI2cwsu 0x00050 0) := by decide
theorem test_decode_auxI2cwsuMot : dec (.req 0x60005000 true) = some (.auxI2cwsuMot 0x00050 0) := by decide
theorem test_decode_auxTransfer : dec (.host 0x0000000005011301) = some (.auxTransfer true true 0 17 0x00050) := by decide
theorem test_decode_auxTransfer_nw : dec (.host 0x0000000010205401) = some (.auxTransfer false false 1 5 0x00102) := by decide
theorem test_decode_trainStart : dec (.host 0x0000000000000002) = some .trainStart := by decide
theorem test_decode_trainInit : dec (.host 0x0000000000000003) = some .trainInit := by decide
theorem test_decode_trainCr : dec (.host 0x0000000000000004) = some .trainCr := by decide
theorem test_decode_trainEq : dec (.host 0x0000000000000005) = some .trainEq := by decide
theorem test_decode_trainDone0 : dec (.host 0x0000000000000006) = some (.trainDone false) := by decide
theorem test_decode_trainDone1 : dec (.host 0x0000000000000106) = some (.trainDone true) := by decide
theorem test_decode_paramGet : dec (.host 0x0000000000000010) = some .paramGet := by decide
theorem test_decode_paramSession : dec (.host 0x0000000000000011) = some .paramSession := by decide
theorem test_decode_paramSet : dec (.host 0x0000000000030D12) = some (.paramSet 13 3) := by decide
theorem test_decode_sigtabSet : dec (.host 0x00002A0000000213) = some (.sigtabSet 2 0 0 0x00 0x2A 0x00) := by decide
theorem test_decode_sinkIrq : dec (.host 0x0000000000000020) = some .sinkIrq := by decide
/-- L2.9 rows 1 to 4, and reserved request words (R87). -/
theorem test_decode_refused :
    [CommandWord.host 0x07, .host 0x0206, .host 0x0000010000001401, .host 0x0102, .req 0x30000000 false, .req 0xA0000000 false,
      .req 0x90000010 false, .req 0x90000001 true].map dec = List.replicate 8 none := by decide
/-- `AUX.NR 0x00202, 6` assembles to the word of L2.1, and decoding it gives the raw transfer. -/
theorem test_assemble_auxNr : assemble (.auxNr 0x00202 6) = 0x0000000020206001 := by decide
theorem test_assemble_auxI2cwsuMot : assemble (.auxI2cwsuMot 0x00050 0) = 0x0000000005000B01 := by decide
/-- The stop of R108. -/
theorem test_i2cStop : encode (i2cStop 0x00050) = .req 0x00005000 true := by decide
theorem test_decodeTableWord : decodeTableWord 32 0x90020205 = some (.auxNr 0x00202 6) := by decide

/-! ### Encodings of the DPCD fields: the examples of R102, R104 and of the programs -/

theorem test_laneSet : [laneSet 0 0, laneSet 1 2, laneSet 3 0, laneSet 0 3, laneSet 3 3, laneSet 2 1] =
    [0x00, 0x11, 0x07, 0x38, 0x3F, 0x0A] := by decide
theorem test_adjust_byte : [adjSwing (laneNibble 0x96 0 0), adjPreemp (laneNibble 0x96 0 0), adjSwing (laneNibble 0x96 0 1),
    adjPreemp (laneNibble 0x96 0 1)] = [2, 1, 1, 2] := by decide
theorem test_link_config : (bwCode 2, laneCountSet .two true, bwCode 1, laneCountSet .four false) = (0x14, 0x82, 0x0A, 0x04) := by
  decide
/-- The wire bytes of `AUX.NW 0x00100, 2, {14 82}` (L2.1). -/
theorem test_wire : wireBytes (format ⟨false, false, 1, 0x00100, 2⟩ .write) (data [0x14, 0x82]) =
    [0x80, 0x01, 0x00, 0x01, 0x14, 0x82] := by decide
theorem test_wire_addrOnly : wireBytes (format ⟨true, false, 2, 0x00050, 0⟩ .wsu) zeroBuf = [0x20, 0x00, 0x50] := by decide

/-! ### One step per test -/

/-- L2.3 row 1. -/
theorem test_auxNr :
    let b := after (.host 0x0000000020206001) (answering [reply 0 7 0 [0x11, 2, 3, 4, 5, 6, 7]] base)
    result b = (0, 0, 6) ∧ b.port.hbuf = data [0x11, 2, 3, 4, 5, 6] ∧ requests b = [(0x90020205, false, [])] := by
  decide +kernel
/-- L2.3 row 3: 0 - 1 = 255 is above the size. -/
theorem test_auxNr_short : result (after (.host 0x0000000020206001) (answering [reply 0 0 0 []] base)) = (3, 0, 0) := by
  decide +kernel
/-- L1.8. -/
theorem test_auxNw :
    let b := after (.host 0x0000000030008401)
      (answering [reply 0 1 0 []] (withBuf [1, 2, 3, 4, 5, 6, 7, 8] base))
    result b = (0, 0, 8) ∧ requests b = [(0x80030007, false, [1, 2, 3, 4, 5, 6, 7, 8])] := by
  decide +kernel
/-- L2.3 row 12. -/
theorem test_auxNw_bound : result (after (.req 0x80030007 false) (answering [reply 0 2 9 []] base)) = (3, 0, 0) := by
  decide +kernel
/-- The example of R140. -/
theorem test_auxI2cr :
    let b := after (.req 0x10005000 true) (answering [reply 0 1 0 []] base)
    result b = (0, 0, 0) ∧ requests b = [(0x10005000, true, [])] ∧ b.port.hcmd = 0x0000000005000101 := by
  decide +kernel
/-- L2.3 row 8. -/
theorem test_auxI2crMot : result (after (.req 0x50005000 false) (answering [.timedOut] base)) = (2, 8, 0) := by
  decide +kernel
/-- The example of R142. -/
theorem test_auxI2cw :
    let b := after (.req 0x00005000 true) (answering [reply 0 1 0 []] base)
    result b = (0, 0, 0) ∧ requests b = [(0x00005000, true, [])] := by
  decide +kernel
/-- The example of R143. -/
theorem test_auxI2cwMot :
    let b := after (.req 0x40005000 false) (answering [reply 4 2 0 []] base)
    result b = (0, 4, 0) ∧ requests b = [(0x40005000, false, [0])] := by
  decide +kernel
/-- L2.3 row 15. -/
theorem test_auxI2cwsu : result (after (.req 0x20005000 true) (answering [reply 0 2 1 []] base)) = (3, 0, 0) := by
  decide +kernel
/-- L2.3 row 16, with its log. -/
theorem test_auxI2cwsu_defer :
    let b := after (.req 0x20005000 true) (answering [reply 8 1 0 []] base)
    result b = (0, 8, 0) ∧ b.hist.length = 5 := by
  decide +kernel
/-- The example of R145. -/
theorem test_auxI2cwsuMot :
    let b := after (.req 0x60005000 true) (answering [reply 0 1 0 []] base)
    result b = (0, 0, 0) ∧ requests b = [(0x60005000, true, [])] := by
  decide +kernel
/-- L1.1. -/
theorem test_auxTransfer_size :
    let b := after (.host 0x0000000000011001) base
    b.port.resStatus = 1 ∧ b.port.resPayload = 0 ∧ b.hist = [.cmdStart 0x01, .cmdEnd .invalidArgument] := by
  decide +kernel
/-- L2.3 row 9: the hardware's timeout bit. -/
theorem test_auxTransfer_err : result (after (.host 0x0000000020204001)
    (answering [.reply { ackStatus 5 with errStatus := 2 } zeroBuf] base)) = (3, 0, 0) := by
  decide +kernel
/-- L2.9 row 5. -/
theorem test_unwrittenRead :
    let b := after (.host 0x0000000030001401) { base with port := resetPort }
    b.faults = noFaults.add .unwrittenRead ∧ requests b = [] := by
  decide +kernel
/-- L2.9 row 1. -/
theorem test_refused :
    let b := after (.host 0x0000000000000007) base
    b.refused = true ∧ b.hist = [] ∧ b.port.resStatus = 0 := by
  decide +kernel
/-- L2.9 row 6. -/
theorem test_commandOverlap : (match step { blk := base, seq := [.endCmd], host := [.run (.host 0x02)] } with
    | .next t => t.blk.faults
    | .fault _ => noFaults
    | .refused _ => noFaults) = noFaults.add .commandOverlap := by
  decide +kernel
/-- A word written while only a service between commands runs is no `CommandOverlap`: it waits (log entry 24). -/
theorem test_writeWaits :
    let s : State := { blk := base, seq := [.serve 1], host := [.run (.host 0x02)] }
    (match step s with
      | .next t => decide (t.blk.faults = noFaults ∧ t.seq = [] ∧ t.host = s.host)
      | .fault _ => false
      | .refused _ => false) = true := by
  decide +kernel
/-- R65: a write that timed out may have been applied in part, here its first byte. -/
theorem test_timedOutWrite :
    let b0 := answering [.timedOut] (withBuf [0x11, 0x22] (sinkWith [] base))
    let b := after (.host 0x0000000030002401) { b0 with env := { b0.env with acted := [1] } }
    result b = (2, 2, 0) ∧ b.env.sink.map (·.mem) = some [(0x300, 0x11)] := by
  decide +kernel
/-- The example of R171. -/
theorem test_paramGet : (after (.host 0x10) base).port.resParam = param 2 .two false true true := by
  decide +kernel
/-- The example of R172, on the value set. -/
theorem test_paramSession :
    let b := after (.host 0x11) base
    b.train.sessionParam.initLanes = .two ∧ b.port.resParam.initLanes = .two ∧ b.store.configLocked = false := by
  decide +kernel
/-- The examples of R173. -/
theorem test_paramSet :
    let b := after (.host 0x0000000000040D12) base
    b.store.defaultParam.eqTps = .tps4 ∧ b.port.resStatus = 0 := by
  decide +kernel
theorem test_paramSet_illegal :
    let b := after (.host 0x0000000000030112) base
    b.store.defaultParam = base.store.defaultParam ∧ b.port.resStatus = 1 := by
  decide +kernel
/-- The example of R175. -/
theorem test_sigtabSet :
    let b := after (.host 0x0008300000010213) base
    sigLookup b.store 2 1 0 = ⟨0x00, 0x30, 0x08⟩ ∧ sigLookup b.store 2 0 1 = ⟨0, 0x2A, 0⟩ ∧ b.port.resStatus = 0 := by
  decide +kernel
theorem test_sigtabSet_index : (after (.host 0x0000000000040013) base).port.resStatus = 1 := by
  decide +kernel
/-- L2.7 row 6: the requests with FEC. -/
theorem test_trainInit :
    let b := after (.host 0x03) (answering [reply 0 17 0 [], reply 0 1 0 [], reply 0 1 0 [], reply 0 1 0 []]
      { base with store := { base.store with defaultParam := param 2 .two true true true } })
    b.port.resStatus = 0 ∧ b.train.phase = .initOk ∧ b.phy.framing = .known .efFec ∧ b.phy.xmitMask = .known 0x3 ∧
      (requests b).map (·.1) = [0x9000000F, 0x80012000, 0x80010700, 0x80010800] := by
  decide +kernel
/-- L2.7 row 7. -/
theorem test_trainInit_timeout :
    let b := after (.host 0x03) (answering [.timedOut] base)
    b.port.resStatus = 3 ∧ b.train.phase = .failedPending ∧ b.store.configLocked = true ∧ (requests b).length = 1 := by
  decide +kernel
/-- L1.4. -/
theorem test_trainCr :
    let b := after (.host 0x04)
      (answering [reply 0 1 0 [], reply 0 1 0 [], reply 0 7 0 [0x11]] (inSession .initOk .two 2))
    b.port.resStatus = 0 ∧ b.train.phase = .crOk ∧ b.train.retry = 0 ∧
      requests b = [(0x80010001, false, [0x14, 0x82]), (0x80010204, false, [0x21, 0, 0, 0, 0]), (0x90020205, false, [])] := by
  decide +kernel
/-- L2.7 row 11. -/
theorem test_trainCr_busy :
    let b := after (.host 0x04)
      { inSession .initOk .one 0 with env := { base.env with phy := [true] } }
    b.port.resStatus = 4 ∧ b.train.phase = .failedPending ∧ b.phy.lanes = .unknown ∧ requests b = [] := by
  decide +kernel
/-- L2.7 row 13. -/
theorem test_trainEq :
    let b := after (.host 0x05)
      (answering [reply 0 1 0 [], reply 0 1 0 [], reply 0 7 0 [0x33, 0, 1]] (inSession .crOk .two 2))
    b.port.resStatus = 0 ∧ b.train.phase = .eqOk := by
  decide +kernel
/-- L2.7 row 14. -/
theorem test_trainEq_lost :
    let b := after (.host 0x05)
      (answering [reply 0 1 0 [], reply 0 1 0 [], reply 0 7 0 [0x01]] (inSession .crOk .two 2))
    b.port.resStatus = 5 ∧ b.train.phase = .retryPending ∧ b.train.retry = 0 ∧ b.train.status.curRate = 1 := by
  decide +kernel
/-- L2.7, completion row 2, with a PHY that answers `Busy`. -/
theorem test_trainDone0 :
    let b := after (.host 0x06)
      { answering [reply 0 1 0 []] base with env := { base.env with aux := [reply 0 1 0 []], phy := [true, true, true, true] } }
    b.port.resStatus = 6 ∧ b.train.phase = .failed ∧ b.phy.power = Vector.replicate 4 .powerDown ∧
      b.hist.filter Event.isStep =
        [.cmdStart 0x06, .hwOp (.setPattern .none) false, .auxIssue 0x80010200 false [0x00], .auxReply (ackStatus 1) (data []),
          .hwOp (.videoEnable false) false, .hwOp (.enableXmit 0) false, .hwOp (.setPerLanePowerMode 0) true,
          .hwOp (.setPerLanePowerMode 1) true, .hwOp (.setPerLanePowerMode 2) true, .hwOp (.setPerLanePowerMode 3) true,
          .cmdEnd .fatal] := by
  decide +kernel
/-- L2.7, completion row 4. -/
theorem test_trainDone1 :
    let b := after (.host 0x0106) (answering [.timedOut] (inSession .eqOk .two 2))
    b.port.resStatus = 0 ∧ b.train.phase = .done ∧ b.train.result.mbps = 5400 ∧ b.train.result.khz = 540000 := by
  decide +kernel
/-- Program P2, step 16. -/
theorem test_trainStart :
    let b := after (.host 0x02)
      (answering [reply 0 17 0 [], reply 0 1 0 [], reply 0 1 0 [], reply 0 1 0 [], reply 0 1 0 [], reply 0 7 0 [0x11], reply 0 1 0 [],
        reply 0 1 0 [], reply 0 7 0 [0x33, 0, 1], reply 0 1 0 []] base)
    b.port.resStatus = 0 ∧ b.train.phase = .done ∧ b.train.status.mbps = 5400 ∧ (requests b).length = 10 := by
  decide +kernel
/-- A training command in the wrong phase (R190). -/
theorem test_sequenceViolation :
    let b := after (.host 0x05) base
    b.faults = noFaults.add .sequenceViolation ∧ b.hist = [.cmdStart 0x05] := by
  decide +kernel
/-- L2.8 row 2, at the reference sink; and row 5: the 0x00250 read is a NACK, the adjust read is skipped, the write-back still made. -/
theorem test_sinkIrq :
    let b := after (.host 0x20) (sinkWith [(0x201, 0x04)] base)
    let b' := after (.host 0x20)
      (answering [reply 0 2 0 [0x02], reply 0 2 0 [0x08], reply 0 2 0 [0x04], reply 1 1 0 [], reply 0 1 0 []] base)
    (b.port.resStatus = 0 ∧ b.sirq.cpIrq = true ∧ b.env.sink.map (·.mem) = some []) ∧
      b'.port.resStatus = 3 ∧ b'.sirq.testPhy = true ∧ b'.sirq.customValid = false ∧
      (requests b').map (·.1) = [0x90020100, 0x90021800, 0x90024800, 0x90025009, 0x80020100] := by
  decide +kernel
/-- L2.8 row 4, at the reference sink. -/
theorem test_sinkIrq_phyTest :
    let b := after (.host 0x20)
      (sinkWith [(0x201, 0x02), (0x206, 0x96), (0x207, 0x0F), (0x218, 0x08), (0x248, 0x04), (0x251, 0x11), (0x259, 0x99)] base)
    b.sirq.customValid = true ∧ b.sirq.adjSwing = #v[2, 1, 3, 0] ∧ b.sirq.adjPreemp = #v[1, 2, 3, 0] ∧
      (requests b).map (·.1) = [0x90020100, 0x90021800, 0x90024800, 0x90025009, 0x90020601, 0x80020100] := by
  decide +kernel

/-! ### Witnesses: for every statement with hypotheses, a state and operands that meet all of them -/

/-- A state with nothing to come. -/
def rest0 (b : Block) : State := at0 b []

theorem witness_DecodeEncode : WellFormed (.auxI2cwMot 0xFFFFF 16) = true ∧ WellFormed (.auxI2cr 0x00050 0) = true := by decide

theorem witness_EncodeDecode : dec (.host 0x0000000000000106) = some (.trainDone true) := by decide

theorem witness_HostWordsRefused :
    (match decode (.host 0x0102) with
      | .ok _ => false
      | .error e => decide (e = .mustBeZero)) = true ∧
      (at0 base [.run (.host 0x0102)]).blk.faults.first? = none ∧ (at0 base [.run (.host 0x0102)]).seq = [] ∧
      (at0 base [.run (.host 0x0102)]).host = .run (.host 0x0102) :: [] ∧
      (at0 base [.cmd (.host 0x0102)]).host = .cmd (.host 0x0102) :: [] := by decide

theorem witness_ReservedRequests :
    (0xF0000000 : BitVec 32).extractLsb' 28 4 ∈ ([0x3, 0x7, 0xA, 0xB, 0xC, 0xD, 0xE, 0xF] : List (BitVec 4)) ∧
      (0x3FFFFF00 : BitVec 32).extractLsb' 28 4 ∈ ([0x3, 0x7, 0xA, 0xB, 0xC, 0xD, 0xE, 0xF] : List (BitVec 4)) ∧
      validRw ⟨false, false, 0, 0xFFFFF, 16⟩ = some .read := by decide

theorem witness_RequestWordIsEncoding :
    (∀ a b c d e, Instr.auxI2cwsu 0x00050 0 ≠ .auxTransfer a b c d e) ∧
      auxRequestOf (.auxI2cwsu 0x00050 0) = some ⟨true, false, 2, 0x00050, 0⟩ ∧
      validRw ⟨true, false, 2, 0x00050, 0⟩ = some .wsu := ⟨nofun, by decide, by decide⟩

theorem witness_AuxKindIsTransfer : auxRequestOf (.auxNw 0x00300 255) = some ⟨false, false, 1, 0x00300, 255⟩ := by decide

/-- Training registers above RBR, at both ends. -/
theorem witness_PatternAndLaneBytes :
    (inSession .crOk .one 1).train.status.curRate ≠ 0 ∧ (inSession .crOk .one 3).train.status.curRate ≠ 0 := by decide

theorem witness_WireForm : (format ⟨false, false, 1, 0x00100, 16⟩ .write).Legal ∧
    (format ⟨false, false, 1, 0x00100, 16⟩ .write).addrOnly = false ∧
    (format ⟨false, false, 1, 0x00100, 16⟩ .write).rw = .write ∧ (15 : Fin 16).val < (16 : Byte).toNat :=
  ⟨format_legal (by decide), by decide, by decide, by decide⟩

/-- A request for each clause, at its boundary: `rw` 3, size 17, MOT on a native request, native size 0, WSU of size 1, i2c without MOT
of size 1. -/
theorem witness_RejectedRequests :
    [(⟨true, true, 3, 0x00050, 1⟩ : Request), ⟨false, false, 0, 0x00000, 17⟩, ⟨false, true, 0, 0x00100, 1⟩,
      ⟨false, false, 0, 0x00100, 0⟩, ⟨true, true, 2, 0x00050, 1⟩, ⟨true, false, 1, 0x00050, 1⟩].map
      (fun q => (decide (q.rw = 3), decide (16#8 < q.size), decide (q.isI2c = false ∧ q.isMot = true),
        decide (q.isI2c = false ∧ q.size = 0),
        decide ((q.rw = 2 ∨ (q.isI2c = true ∧ q.isMot = false)) ∧ 0#8 < q.size))) =
    [(true, false, false, false, false), (false, true, false, false, false), (false, false, true, false, false),
      (false, false, false, true, false), (false, false, false, false, true), (false, false, false, false, true)] ∧
    auxRequestOf (.auxTransfer false false 0 17 0x00000) = some ⟨false, false, 0, 0x00000, 17⟩ := by decide

/-- A state that meets the hypotheses of the statements about a completed transfer. -/
theorem witness_TransferCompletes :
    let s := rest0 (answering [reply 0 7 0 [0x11]] base)
    auxRequestOf (.auxNr 0x00202 6) = some ⟨false, false, 0, 0x00202, 6⟩ ∧ acceptedShape ⟨false, false, 0, 0x00202, 6⟩ = true ∧
      rwOf 0 = some .read ∧ s.blk.aux.fsm = .idle ∧ Quiet s.blk ∧ s.blk.env.aux = reply 0 7 0 [0x11] :: [] ∧
      (Rw.read = .write → ∀ k : Fin 16, k.val < (6 : Byte).toNat → s.blk.port.hbufWritten[k] = true) := by decide

/-- The same with a write of the largest size. -/
theorem witness_TransferCompletes_write :
    let s := rest0 (answering [.timedOut] base)
    auxRequestOf (.auxI2cwMot 0x00050 16) = some ⟨true, true, 1, 0x00050, 16⟩ ∧
      acceptedShape ⟨true, true, 1, 0x00050, 16⟩ = true ∧ rwOf 1 = some .write ∧ s.blk.aux.fsm = .idle ∧ Quiet s.blk ∧
      s.blk.env.aux = .timedOut :: [] ∧
      (Rw.write = .write → ∀ k : Fin 16, k.val < (16 : Byte).toNat → s.blk.port.hbufWritten[k] = true) := by decide

theorem witness_TimeoutResult :
    let s := rest0 (answering [.timedOut] base)
    auxRequestOf (.auxI2crMot 0x00050 1) = some ⟨true, true, 0, 0x00050, 1⟩ ∧ validRw ⟨true, true, 0, 0x00050, 1⟩ = some .read ∧
      s.blk.aux.fsm = .idle ∧ Quiet s.blk ∧ s.blk.env.aux = .timedOut :: [] ∧
      (Rw.read = .write → ∀ k : Fin 16, k.val < (1 : Byte).toNat → s.blk.port.hbufWritten[k] = true) := by decide

/-- One state for each clause: an unwritten last byte, and a transaction in flight. -/
theorem witness_TransferFaults :
    auxRequestOf (.auxNw 0x00300 1) = some ⟨false, false, 1, 0x00300, 1⟩ ∧ validRw ⟨false, false, 1, 0x00300, 1⟩ = some .write ∧
      (∃ k : Fin 16, k.val < (1 : Byte).toNat ∧ (rest0 { base with port := resetPort }).blk.port.hbufWritten[k] = false) ∧
      (rest0 { base with aux := { base.aux with fsm := .wait } }).blk.aux.fsm = .wait ∧
      (∀ k : Fin 16, k.val < (1 : Byte).toNat →
        (rest0 { base with aux := { base.aux with fsm := .wait } }).blk.port.hbufWritten[k] = true) := by decide

theorem witness_TransferIo :
    auxRequestOf (.auxI2cw 0x00050 0) = some ⟨true, false, 1, 0x00050, 0⟩ ∧ validRw ⟨true, false, 1, 0x00050, 0⟩ = some .write ∧
      (rest0 base).blk.aux.fsm = .idle ∧ Quiet (rest0 base).blk ∧
      (Rw.write = .write → ∀ k : Fin 16, k.val < (0 : Byte).toNat → (rest0 base).blk.port.hbufWritten[k] = true) := by decide

theorem witness_TransferFrame :
    auxRequestOf (.auxNw 0x00300 1) = some ⟨false, false, 1, 0x00300, 1⟩ ∧
      (∃ b, exec (.auxNw 0x00300 1) (rest0 base) = .next { rest0 base with blk := b }) ∧ (1 : BitVec 2) ≠ 0 ∧
      (rest0 base).blk.aux.fsm = .idle := ⟨by decide, exec_next _ _, by decide, by decide⟩

theorem witness_ParamGetAndSession : (rest0 base).blk.train.phase ∈ [Phase.idle, .done, .failed] := by decide

/-- Both clauses at the boundary of a field: value 3 is legal for the rate and 4 is not, 4 lanes are legal and 3 are not; field 13 is the
last one. -/
theorem witness_ParamSet :
    (rest0 base).blk.store.configLocked = false ∧ (paramSetResult 0 3 zeroParam).isSome = true ∧ paramSetResult 0 4 zeroParam = none ∧
      (paramSetResult 1 4 zeroParam).isSome = true ∧ paramSetResult 1 3 zeroParam = none ∧
      (paramSetResult 5 3 zeroParam).isSome = true ∧ (paramSetResult 9 3 zeroParam).isSome = true ∧
      (paramSetResult 12 1 zeroParam).isSome = true ∧ paramSetResult 12 2 zeroParam = none ∧
      (paramSetResult 13 4 zeroParam).isSome = true ∧ paramSetResult 14 0 zeroParam = none := by decide

theorem witness_SigtabSet :
    (rest0 base).blk.store.configLocked = false ∧ (3 : Byte) ≤ 3 ∧ (0 : Byte) ≤ 3 ∧ (4 : Byte) > 3 := by decide

/-- Every clause: the two locked writes, a training command out of its phase, and `PARAM.SESSION` during a session. -/
theorem witness_LockAndSequenceFaults :
    (∃ f v, Instr.paramSet 0 1 = .paramSet f v) ∧ (rest0 (inSession .initOk .one 0)).blk.store.configLocked = true ∧
      (∃ r w p a b c, Instr.sigtabSet 0 0 0 1 2 3 = .sigtabSet r w p a b c) ∧
      isTraining .trainCr = true ∧ Instr.trainCr ∉ legalTraining (rest0 base).blk.train.phase ∧
      (rest0 (inSession .crOk .one 0)).blk.train.phase ∉ [Phase.idle, .done, .failed] :=
  ⟨⟨0, 1, rfl⟩, by decide, ⟨0, 0, 0, 1, 2, 3, rfl⟩, by decide, by decide, by decide⟩

/-- The answer to a request that defers. -/
def deferral : AuxAnswer := reply 2 0 0 []

theorem deferral_defers : Defers deferral := ⟨_, _, rfl, rfl, rfl, .inl rfl⟩

/-- An expired wait, and a reply of type ACK or NACK, does not defer. -/
theorem not_defers_timedOut : ¬ Defers .timedOut := nofun
theorem not_defers_reply {r : ReplyStatus} {d : Buf} (h2 : r.replyType ≠ 0x2) (h8 : r.replyType ≠ 0x8) :
    ¬ Defers (.reply r d) := by
  rintro ⟨r', d', ⟨rfl⟩, -, -, h | h⟩
  · exact h2 h
  · exact h8 h

/-- An answer at once, whole or a NACK; and the last of `DEFER_RETRY_MAX` deferred issues, deferred too. -/
theorem witness_CheckedAccess :
    let b := answering ([] ++ ackRead 6 zeroBuf :: []) base
    let b' := answering ([] ++ reply 1 1 0 [] :: []) base
    let b'' := answering (List.replicate Config.deferRetryMax deferral ++ deferral :: []) base
    (b.aux.fsm = .idle ∧ Quiet b ∧ b.env.aux = [] ++ ackRead 6 zeroBuf :: [] ∧ (∀ x ∈ ([] : List AuxAnswer), Defers x) ∧
        ([] : List AuxAnswer).length ≤ Config.deferRetryMax ∧ ¬ Defers (ackRead 6 zeroBuf) ∧
        WholeAck .linkStatus (ackRead 6 zeroBuf)) ∧
      (b'.aux.fsm = .idle ∧ Quiet b' ∧ b'.env.aux = [] ++ reply 1 1 0 [] :: [] ∧ ¬ Defers (reply 1 1 0 [])) ∧
      (b''.aux.fsm = .idle ∧ Quiet b'' ∧ b''.env.aux = List.replicate Config.deferRetryMax deferral ++ deferral :: [] ∧
        (∀ x ∈ List.replicate Config.deferRetryMax deferral, Defers x) ∧
        (List.replicate Config.deferRetryMax deferral).length = Config.deferRetryMax) :=
  ⟨⟨by decide, by decide, rfl, nofun, Nat.zero_le _, not_defers_reply (by decide) (by decide),
      ⟨_, _, rfl, rfl, rfl, rfl, by decide⟩⟩,
    ⟨by decide, by decide, rfl, not_defers_reply (by decide) (by decide)⟩,
    ⟨rfl, ⟨rfl, rfl, rfl⟩, rfl, fun _ hx => List.eq_of_mem_replicate hx ▸ deferral_defers, List.length_replicate⟩⟩

theorem witness_LegalCommandsEnd :
    Instr.trainDone true ∈ legalTraining (rest0 (inSession .eqOk .one 0)).blk.train.phase ∧
      (rest0 (inSession .eqOk .one 0)).blk.aux.fsm = .idle := by decide

theorem witness_InitCompletes :
    let s := rest0 (answering [ackRead 16 zeroBuf, ackWrite zeroBuf, ackWrite zeroBuf] base)
    s.blk.train.phase ∈ [Phase.idle, .done, .failed] ∧ s.blk.aux.fsm = .idle ∧ Quiet s.blk ∧
      s.blk.env.aux = ackRead 16 zeroBuf ::
        ((if s.blk.store.defaultParam.fecEn then [ackWrite zeroBuf] else []) ++ ackWrite zeroBuf :: ackWrite zeroBuf :: []) := by
  decide

/-- The same with FEC asked for. -/
theorem witness_InitCompletes_fec :
    let s := rest0 (answering [ackRead 16 zeroBuf, ackWrite zeroBuf, ackWrite zeroBuf, ackWrite zeroBuf]
      { base with store := { base.store with defaultParam := param 3 .four true true true } })
    s.blk.train.phase ∈ [Phase.idle, .done, .failed] ∧ s.blk.aux.fsm = .idle ∧ Quiet s.blk ∧
      s.blk.env.aux = ackRead 16 zeroBuf ::
        ((if s.blk.store.defaultParam.fecEn then [ackWrite zeroBuf] else []) ++ ackWrite zeroBuf :: ackWrite zeroBuf :: []) := by
  decide

theorem witness_InitOutcome :
    (rest0 base).blk.train.phase ∈ [Phase.idle, .done, .failed] ∧ (rest0 base).blk.aux.fsm = .idle := by decide

theorem witness_CrConverges :
    let s := rest0 (answering [ackWrite zeroBuf, ackWrite zeroBuf, ackRead 6 (data [0x11, 0x11])] (inSession .initOk .four 3))
    s.blk.train.phase ∈ [Phase.initOk, .retryPending] ∧ s.blk.aux.fsm = .idle ∧ Quiet s.blk ∧ PhyOk s.blk ∧
      s.blk.env.aux = ackWrite zeroBuf :: ackWrite zeroBuf :: ackRead 6 (data [0x11, 0x11]) :: [] ∧
      ∀ i : Lane, i.val < s.blk.train.status.curLanes.toNat → laneCr (sixBytes (data [0x11, 0x11])) i = true := by
  decide +kernel

/-- At the lowest rung, above it, and at RBR with four lanes. -/
theorem witness_CrGivesUp :
    let l := [ackWrite zeroBuf, ackWrite zeroBuf, ackRead 6 zeroBuf]
    let s := rest0 (answering (l ++ l ++ l ++ l ++ l) (inSession .initOk .one 0))
    let s' := rest0 (answering (l ++ l ++ l ++ l ++ l) (inSession .retryPending .four 1))
    let s'' := rest0 (answering (l ++ l ++ l ++ l ++ l) (inSession .retryPending .four 0))
    s.blk.train.phase ∈ [Phase.initOk, .retryPending] ∧ s.blk.aux.fsm = .idle ∧ Quiet s.blk ∧ PhyOk s.blk ∧
      s.blk.env.aux = (l ++ l ++ l ++ l ++ l) ++ [] ∧
      (∃ i : Lane, i.val < s.blk.train.status.curLanes.toNat ∧ laneCr (sixBytes zeroBuf) i = false) ∧
      (∀ i : Lane, i.val < s.blk.train.status.curLanes.toNat →
        laneAsks (sixBytes zeroBuf) i s.blk.train.status.swing[i] s.blk.train.status.preemp[i]) ∧
      s.blk.train.status.curRate = 0 ∧ s.blk.train.status.curLanes = .one ∧
      s'.blk.train.phase ∈ [Phase.initOk, .retryPending] ∧ s'.blk.train.status.curRate ≠ 0 ∧
      s''.blk.train.status.curRate = 0 ∧ s''.blk.train.status.curLanes ≠ .one := by
  decide +kernel

theorem witness_CrOutcome :
    (rest0 (inSession .retryPending .one 0)).blk.train.phase ∈ [Phase.initOk, .retryPending] ∧
      (rest0 (inSession .retryPending .one 0)).blk.aux.fsm = .idle := by decide

/-- Two lanes from level 0: the first request changes nothing, the second asks for swing 1 on lane 0. -/
theorem witness_CrAdjusts :
    let w := ackWrite zeroBuf
    let r2 := data [0, 0, 0, 0, 0x01]
    let s := rest0 (answering ([w, w, ackRead 6 zeroBuf, w, w, ackRead 6 r2, w, w, ackRead 6 (data [0x11])] ++ [])
      (inSession .initOk .two 1))
    let st := s.blk.train.status
    s.blk.train.phase ∈ [Phase.initOk, .retryPending] ∧ s.blk.aux.fsm = .idle ∧ Quiet s.blk ∧ PhyOk s.blk ∧
      s.blk.env.aux = [w, w, ackRead 6 zeroBuf, w, w, ackRead 6 r2, w, w, ackRead 6 (data [0x11])] ++ [] ∧
      (∃ i : Lane, i.val < st.curLanes.toNat ∧ laneCr (sixBytes zeroBuf) i = false) ∧
      (∃ i : Lane, i.val < st.curLanes.toNat ∧ laneCr (sixBytes r2) i = false) ∧
      (∀ i : Lane, i.val < st.curLanes.toNat → laneCr (sixBytes (data [0x11])) i = true) ∧
      (∀ i : Lane, i.val < st.curLanes.toNat → laneAsks (sixBytes zeroBuf) i st.swing[i] st.preemp[i]) ∧
      ∃ i : Lane, i.val < st.curLanes.toNat ∧ ¬ laneAsks (sixBytes r2) i st.swing[i] st.preemp[i] := by
  decide +kernel

theorem witness_EqConverges :
    let s := rest0 (answering [ackWrite zeroBuf, ackWrite zeroBuf, ackRead 6 (data [0x33, 0, 1])] (inSession .crOk .two 2))
    s.blk.train.phase = .crOk ∧ s.blk.aux.fsm = .idle ∧ Quiet s.blk ∧
      s.blk.env.aux = ackWrite zeroBuf :: ackWrite zeroBuf :: ackRead 6 (data [0x33, 0, 1]) :: [] ∧
      ∀ i : Lane, i.val < s.blk.train.status.curLanes.toNat →
        laneCr (sixBytes (data [0x33, 0, 1])) i = true ∧ laneEq (sixBytes (data [0x33, 0, 1])) i = true := by
  decide +kernel

theorem witness_EqLosesClock :
    let s := rest0 (answering [ackWrite zeroBuf, ackWrite zeroBuf, ackRead 6 (data [0x03])] (inSession .crOk .two 2))
    let s' := rest0 (answering [ackWrite zeroBuf, ackWrite zeroBuf, ackRead 6 zeroBuf] (inSession .crOk .one 0))
    let s'' := rest0 (answering [ackWrite zeroBuf, ackWrite zeroBuf, ackRead 6 zeroBuf] (inSession .crOk .four 0))
    s.blk.train.phase = .crOk ∧ s.blk.aux.fsm = .idle ∧ Quiet s.blk ∧
      s.blk.env.aux = ackWrite zeroBuf :: ackWrite zeroBuf :: ackRead 6 (data [0x03]) :: [] ∧
      (∃ i : Lane, i.val < s.blk.train.status.curLanes.toNat ∧ laneCr (sixBytes (data [0x03])) i = false) ∧
      s.blk.train.status.curRate ≠ 0 ∧ s'.blk.train.phase = .crOk ∧
      (∃ i : Lane, i.val < s'.blk.train.status.curLanes.toNat ∧ laneCr (sixBytes zeroBuf) i = false) ∧
      s'.blk.train.status.curRate = 0 ∧ s'.blk.train.status.curLanes = .one ∧ s''.blk.train.status.curRate = 0 ∧
      s''.blk.train.status.curLanes ≠ .one := by
  decide +kernel

theorem witness_EqOutcome :
    (rest0 (inSession .crOk .one 0)).blk.train.phase = .crOk ∧ (rest0 (inSession .crOk .one 0)).blk.aux.fsm = .idle := by decide

/-- Both clauses: `TRAIN.EQ` that loses clock recovery ends `Retry` at HBR2 and `Fatal` at RBR with one lane. -/
theorem witness_LadderStep :
    Instr.trainEq ∈ legalTraining (rest0 (inSession .crOk .two 2)).blk.train.phase ∧
      (rest0 (inSession .crOk .two 2)).blk.aux.fsm = .idle ∧
      (∃ b, exec .trainEq (rest0 (inSession .crOk .two 2)) = .next { rest0 (inSession .crOk .two 2) with blk := b }) ∧
      (after (.host 0x05) (answering [ackWrite zeroBuf, ackWrite zeroBuf, ackRead 6 zeroBuf] (inSession .crOk .two 2))).port.resStatus
        = 5 ∧
      (after (.host 0x05) (answering [ackWrite zeroBuf, ackWrite zeroBuf, ackRead 6 zeroBuf] (inSession .crOk .one 0))).port.resStatus
        = 6 := ⟨by decide, by decide, exec_next _ _, by decide +kernel, by decide +kernel⟩

/-- Every clause: an answered teardown, and a session whose first access times out and ends `Fatal`. -/
theorem witness_DoneFail :
    let s := rest0 (answering [.timedOut] base)
    (rest0 base).blk.aux.fsm = .idle ∧
      (s.blk.aux.fsm = .idle ∧ Quiet s.blk ∧ s.blk.env.aux = .timedOut :: [] ∧ ¬ Defers .timedOut) ∧
      Instr.trainStart ∈ legalTraining (rest0 base).blk.train.phase ∧
      (∃ b, exec .trainStart (rest0 base) = .next { rest0 base with blk := b }) ∧
      (after (.host 0x02) (answering [.timedOut, .timedOut] base)).port.resStatus = 6 :=
  ⟨by decide, ⟨by decide, by decide, by decide, not_defers_timedOut⟩, by decide, exec_next _ _, by decide +kernel⟩

/-- A session with FEC asked for, before `TRAIN.DONE 1`. -/
def fecSession : Block :=
  { inSession .eqOk .two 2 with train := { (inSession .eqOk .two 2).train with sessionParam := param 2 .two true true true } }

theorem not_fecSeen_timedOut : ¬ FecSeen .timedOut := by
  rintro ⟨-, _, _, ⟨⟩, -⟩

/-- Every clause: without FEC; FEC seen at the first attempt and at the third; and three attempts without. -/
theorem witness_DoneOk :
    let s := rest0 (answering [.timedOut] (inSession .eqOk .two 2))
    let hit := ackRead 1 (data [0x01])
    let s1 := rest0 (answering (ackWrite zeroBuf :: [] ++ hit :: []) fecSession)
    let s3 := rest0 (answering (ackWrite zeroBuf :: [.timedOut, .timedOut] ++ hit :: []) fecSession)
    let s4 := rest0 (answering (ackWrite zeroBuf :: [.timedOut, .timedOut, .timedOut] ++ []) fecSession)
    (s.blk.train.phase = .eqOk ∧ s.blk.aux.fsm = .idle ∧ s.blk.train.sessionParam.fecEn = false ∧ Quiet s.blk ∧
        s.blk.env.aux = .timedOut :: []) ∧
      (s1.blk.train.phase = .eqOk ∧ s1.blk.aux.fsm = .idle ∧ Quiet s1.blk ∧ s1.blk.train.sessionParam.fecEn = true ∧
        s1.blk.env.aux = ackWrite zeroBuf :: [] ++ hit :: []) ∧
      (Quiet s3.blk ∧ s3.blk.env.aux = ackWrite zeroBuf :: [.timedOut, .timedOut] ++ hit :: []) ∧
      (Quiet s4.blk ∧ s4.blk.env.aux = ackWrite zeroBuf :: [.timedOut, .timedOut, .timedOut] ++ []) ∧
      ¬ Defers (ackWrite zeroBuf) ∧ FecSeen hit ∧ ¬ FecSeen .timedOut ∧ ¬ Defers .timedOut :=
  ⟨by decide, by decide, by decide, by decide, not_defers_reply (by decide) (by decide),
    ⟨⟨_, _, rfl, rfl, rfl, rfl, by decide⟩, _, _, rfl, by decide⟩, not_fecSeen_timedOut, not_defers_timedOut⟩

theorem witness_StartOutcome :
    (rest0 { base with train := { base.train with phase := .failed } }).blk.train.phase ∈ [Phase.idle, .done, .failed] ∧
      (rest0 { base with train := { base.train with phase := .failed } }).blk.aux.fsm = .idle := by decide

theorem witness_StartCompletes :
    let w := ackWrite zeroBuf
    let r1 := data [0x11]
    let r2 := data [0x33, 0, 1]
    let s := rest0 (answering [ackRead 16 zeroBuf, w, w, w, w, ackRead 6 r1, w, w, ackRead 6 r2, w] base)
    let p := s.blk.store.defaultParam
    s.blk.train.phase ∈ [Phase.idle, .done, .failed] ∧ s.blk.aux.fsm = .idle ∧ Quiet s.blk ∧ PhyOk s.blk ∧ p.fecEn = false ∧
      s.blk.env.aux = [ackRead 16 zeroBuf, w, w, w, w, ackRead 6 r1, w, w, ackRead 6 r2, w] ++ [] ∧
      ∀ i : Lane, i.val < p.initLanes.toNat →
        laneCr (sixBytes r1) i = true ∧ laneCr (sixBytes r2) i = true ∧ laneEq (sixBytes r2) i = true := by
  decide +kernel

theorem witness_LadderBound :
    (rest0 base).blk.train.phase ∈ [Phase.idle, .done, .failed] ∧ (rest0 base).blk.aux.fsm = .idle := by decide

theorem witness_StatusFrozen :
    let s := rest0 { base with train := { base.train with phase := .done } }
    s.blk.train.phase = .done ∧ Instr.trainDone false ≠ .trainInit ∧ Instr.trainDone false ≠ .trainStart ∧
      ∃ t, exec (.trainDone false) s = .next t :=
  ⟨by decide, by decide, by decide, ⟨_, rfl⟩⟩

theorem witness_StepFrames :
    (∃ b, exec .trainInit (rest0 base) = .next { rest0 base with blk := b }) ∧ (Instr.trainEq = .trainCr ∨ Instr.trainEq = .trainEq) ∧
      ∃ b, exec .trainEq (rest0 (inSession .crOk .one 0)) = .next { rest0 (inSession .crOk .one 0) with blk := b } :=
  ⟨exec_next _ _, .inr rfl, exec_next _ _⟩

theorem witness_DoneFrame :
    (∃ b, exec (.trainDone false) (rest0 base) = .next { rest0 base with blk := b }) ∧
      ∃ b, exec (.trainDone true) (rest0 (inSession .eqOk .one 0)) = .next { rest0 (inSession .eqOk .one 0) with blk := b } :=
  ⟨exec_next _ _, exec_next _ _⟩

theorem witness_HostSideFrame :
    Instr.trainInit ∈ legalTraining (rest0 base).blk.train.phase ∧ (rest0 base).blk.aux.fsm = .idle ∧
      (∃ b, exec .trainInit (rest0 base) = .next { rest0 base with blk := b }) ∧
      (∃ b, exec .sinkIrq (rest0 base) = .next { rest0 base with blk := b }) ∧
      Instr.trainDone false ≠ .trainInit ∧ Instr.trainDone false ≠ .trainStart ∧
      ∃ b, exec (.trainDone false) (rest0 base) = .next { rest0 base with blk := b } :=
  ⟨by decide, by decide, exec_next _ _, exec_next _ _, by decide, by decide, exec_next _ _⟩

/-- An expired wait, and a NACK, acknowledge nothing. -/
theorem not_wholeAck_timedOut (a : Access) : ¬ WholeAck a .timedOut := by
  rintro ⟨_, _, ⟨⟩, -⟩
theorem not_wholeAck_reply {a : Access} {r : ReplyStatus} {d : Buf} (h : r.replyType ≠ 0x0) : ¬ WholeAck a (.reply r d) := by
  rintro ⟨r', d', ⟨rfl⟩, -, -, h', -⟩
  exact h h'

theorem witness_SinkIrqOutcome :
    let s := rest0 (answering [.timedOut] base)
    (rest0 (inSession .crOk .one 0)).blk.aux.fsm = .idle ∧ s.blk.aux.fsm = .idle ∧ Quiet s.blk ∧
      s.blk.env.aux = .timedOut :: [] ∧ ¬ Defers .timedOut ∧ ¬ WholeAck .irqVector .timedOut :=
  ⟨by decide, by decide, by decide, by decide, not_defers_timedOut, not_wholeAck_timedOut _⟩

/-- The bytes of L2.8 row 4. -/
def phyTestData : Access → Buf
  | .irqVector => data [0x02]
  | .testRequest => data [0x08]
  | .phyTestPattern => data [0x04]
  | _ => zeroBuf

/-- No test request, with a clear that times out (`k` = 0, no read); and L2.8 row 5, whose third read is a NACK. -/
theorem witness_SinkIrqParses :
    let s := rest0 (answering ([ackRead 1 zeroBuf] ++ [] ++ .timedOut :: []) base)
    let reads := parserReads (phyTestData .irqVector)[0] (phyTestData .testRequest)[0] (phyTestData .phyTestPattern)[0]
    let nack := reply 1 1 0 []
    let s' := rest0 (answering (ackRead 1 (phyTestData .irqVector) :: ((reads.take 2).map fun a => ackRead a.size (phyTestData a)) ++
      (if 2 < reads.length then [nack] else []) ++ ackWrite zeroBuf :: []) base)
    (s.blk.aux.fsm = .idle ∧ Quiet s.blk ∧ parserReads 0 0 0 = [] ∧ ¬ Defers .timedOut) ∧
      (s'.blk.aux.fsm = .idle ∧ Quiet s'.blk ∧ 2 ≤ reads.length ∧ reads[2]? = some .customPattern ∧
        s'.blk.env.aux = ackRead 1 (phyTestData .irqVector) :: ((reads.take 2).map fun a => ackRead a.size (phyTestData a)) ++
          (if 2 < reads.length then [nack] else []) ++ ackWrite zeroBuf :: [] ∧
        ¬ Defers nack ∧ ¬ WholeAck .customPattern nack ∧ ¬ Defers (ackWrite zeroBuf)) :=
  ⟨⟨by decide, by decide, by decide, not_defers_timedOut⟩, by decide, by decide, by decide, by decide, rfl,
    not_defers_reply (by decide) (by decide), not_wholeAck_reply (by decide), not_defers_reply (by decide) (by decide)⟩

theorem witness_SinkIrqTrainingTest :
    let l := [ackRead 1 (data [0x02]), ackRead 1 (data [0x01]), ackRead 1 (data [0x0A]), ackRead 1 (data [0x04]), ackWrite zeroBuf]
    let s := rest0 (answering l base)
    s.blk.aux.fsm = .idle ∧ Quiet s.blk ∧ s.blk.env.aux = l ++ [] ∧ (data [0x02])[0].getLsbD 1 = true ∧
      (data [0x01])[0].getLsbD 0 = true ∧ (data [0x01])[0].getLsbD 3 = false := by decide +kernel

theorem witness_SinkIrqPhyTest :
    let l := [ackRead 1 (data [0x02]), ackRead 1 (data [0x08]), ackRead 1 (data [0x04]), ackRead 10 (data [0, 0x11]),
      ackRead 2 (data [0x96, 0x0F]), ackWrite zeroBuf]
    let s := rest0 (answering l base)
    s.blk.aux.fsm = .idle ∧ Quiet s.blk ∧ s.blk.env.aux = l ++ [] ∧ (data [0x02])[0].getLsbD 1 = true ∧
      (data [0x08])[0].getLsbD 0 = false ∧ (data [0x08])[0].getLsbD 3 = true ∧ (data [0x04])[0] = 0x04 := by decide +kernel

/-- A request that comes with the boundary, and one that was pending; a vector that is read, and one whose read times out. -/
theorem witness_AsyncServiceRuns :
    let x : Boundary := { request := true, serve := .times 1 }
    let b (as : List AuxAnswer) : Block := { base with env := { base.env with irq := [x], aux := as } }
    let b' : Block := { base with svc := ⟨true, false⟩ }
    let as := ackRead 1 (data [0x04]) :: ackWrite zeroBuf :: []
    (b as).aux.fsm = .idle ∧ (b as).svc.active = false ∧ (b as).env.irq = [x] ∧ (b as).env.irqQuiet = true ∧ x.request = true ∧
      x.serve = .times (0 + 1) ∧ (b as).env.aux = as ∧ (data [0x04])[0].getLsbD 1 = false ∧
      (b [.timedOut]).env.aux = .timedOut :: [] ∧ b'.svc.pending = true ∧ b'.aux.fsm = .idle ∧ b'.svc.active = false := by decide +kernel

theorem witness_NoServiceInFlight :
    ({ base with aux := { base.aux with fsm := .wait } } : Block).aux.fsm = .wait ∧
      ({ base with svc := ⟨true, true⟩ } : Block).svc.active = true := by decide

/-- A state with a command just started meets the invariant, and a step from it is taken. -/
theorem witness_StepKeepsInv :
    (at0 base [.cmd (.host 0x02)]).Inv ∧ ∃ t, step (at0 base [.cmd (.host 0x02)]) = .next t := by
  refine ⟨⟨by decide, nofun, ⟨.inl rfl, by decide, by decide⟩, ?_, rfl⟩, ⟨_, rfl⟩⟩
  intro k hk
  cases hk

theorem witness_StepGrows : ∃ t, step (at0 base [.run (.host 0x10)]) = .next t := ⟨_, rfl⟩

/-- The premises of both clauses are met where a result is valid, and where the configuration is unlocked. -/
theorem witness_CommandKeepsSession :
    let s := rest0 { base with train := { base.train with phase := .done, resultValid := true } }
    (∃ t, exec .sinkIrq s = .next t) ∧ ResultInv s.blk ∧ s.blk.train.resultValid = true ∧ LockInv (rest0 base).blk ∧
      (rest0 base).blk.store.configLocked = false := ⟨⟨_, rfl⟩, by decide, by decide, by decide, by decide⟩

theorem witness_FaultsStop :
    (rest0 { base with faults := noFaults.add .unwrittenRead }).blk.faults = noFaults.add .unwrittenRead ∧
      (rest0 base).blk.faults = noFaults ∧ commandRuns [.endCmd] = true ∧ HostAction.buf 0 0 ≠ .wait ∧ HostAction.buf 0 0 ≠ .idle := by
  decide

theorem witness_StepRunsDecoded :
    let s := at0 base [.run (.host 0x10)]
    s.blk.faults.first? = none ∧ s.seq = [] ∧ s.host = .run (.host 0x10) :: [] ∧ dec (.host 0x10) = some .paramGet := by decide

/-- A quiet source, and a source that asks for one service, are fair. -/
theorem witness_MicroStepsRunCommand :
    (rest0 base).blk.faults.first? = none ∧ FairSource (rest0 base).blk.env ∧
      FairSource { base.env with irq := [{ request := true, serve := .times 1 }] } :=
  ⟨by decide, ⟨nofun, nofun⟩, ⟨by decide, nofun⟩⟩

theorem witness_SinkRoundTrip :
    let s := rest0 (sinkWith [] base)
    1#8 ≤ (16 : Byte) ∧ (16 : Byte) ≤ 16#8 ∧ s.blk.aux.fsm = .idle ∧ Quiet s.blk ∧ s.blk.env.aux = [] ∧
      s.blk.env.sink = some ⟨[], [], []⟩ ∧ memWf [] = true ∧
      (∀ j < (16 : Byte).toNat, ((0xFFFFF : BitVec 20).toNat + j) % 2 ^ 20 ≠ 0x201) ∧
      (∀ j : Fin 16, j.val < (16 : Byte).toNat → s.blk.port.hbufWritten[j] = true) := by decide +kernel

/-- Both clauses, at a burst of two bytes whose second is the write-1-to-clear byte. -/
theorem witness_SinkFrame :
    let s := rest0 (sinkWith [(0x201, 6)] base)
    let q : Request := ⟨false, false, 1, 0x00200, 2⟩
    auxRequestOf (.auxNw 0x00200 2) = some q ∧ s.blk.aux.fsm = .idle ∧ Quiet s.blk ∧
      s.blk.env.aux = [] ∧ s.blk.env.sink = some ⟨[(0x201, 6)], [], []⟩ ∧
      (∃ b, exec (.auxNw 0x00200 2) s = .next { s with blk := b }) ∧
      (∀ j < q.size.toNat, (0x202 : Nat) ≠ (q.addr.toNat + j) % 2 ^ 20) ∧ acceptedShape q = true ∧
      memWf [(0x201, 6)] = true ∧ (∀ j : Fin 16, j.val < q.size.toNat → s.blk.port.hbufWritten[j] = true) ∧
      (q.addr.toNat + 0) % 2 ^ 20 ≠ 0x201 ∧ (q.addr.toNat + 1) % 2 ^ 20 = 0x201 :=
  ⟨by decide, by decide, by decide, by decide, by decide, exec_next _ _, by decide +kernel, by decide, by decide, by decide,
    by decide, by decide⟩

end Sys2Proof.Tests
end

section
/-! PROOFS. What the sequencer's code leaves as it was (spec/60_exceptions.md R251, R262): a boundary with its services, a checked
access, and, by the rules of `Triple`, every code that makes no host transfer. -/

namespace Sys2Proof.Machine

open Sys2Proof

/-! ### What no code of the sequencer writes -/

/-- What every code that makes no host transfer and raises no fault leaves as it was: the host's registers and the marks; and the
history only grows. -/
structure Steady (a b : Block) : Prop where
  port : b.port = a.port
  faults : b.faults = a.faults
  refused : b.refused = a.refused
  active : b.svc.active = a.svc.active
  hist : a.hist <+: b.hist

theorem Steady.refl (b : Block) : Steady b b := ⟨rfl, rfl, rfl, rfl, List.prefix_rfl⟩

theorem Steady.trans {a b c : Block} (h : Steady a b) (k : Steady b c) : Steady a c :=
  ⟨k.port.trans h.port, k.faults.trans h.faults, k.refused.trans h.refused, k.active.trans h.active, h.hist.trans k.hist⟩

theorem steady_log (e : Event) (b : Block) : Steady b (log e b) := ⟨rfl, rfl, rfl, rfl, List.prefix_append _ _⟩

/-- A boundary that writes only what a sink service may write (R262). -/
structure Gentle (hook : Block → Block) : Prop where
  same : ∀ b, SameButService b (hook b)
  fsm : ∀ b, (hook b).aux.fsm = b.aux.fsm
  active : ∀ b, (hook b).svc.active = b.svc.active
  hist : ∀ b, b.hist <+: (hook b).hist

theorem Gentle.steady {hook : Block → Block} (g : Gentle hook) (b : Block) : Steady b (hook b) :=
  ⟨(g.same b).port, (g.same b).faults, (g.same b).refused, g.active b, g.hist b⟩

theorem quietBoundary_gentle : Gentle quietBoundary where
  same _ := ⟨rfl, rfl, rfl, rfl, rfl, rfl, rfl⟩
  fsm _ := rfl
  active _ := rfl
  hist _ := List.prefix_rfl

/-! ### A checked access (R149 to R151) -/

/-- What a checked access leaves as it was: but for the capability and the link-status read, every training register; every PHY
shadow, the store, and the locals it does not write. -/
structure AccessKeeps (a : Access) (b c : Block) : Prop where
  store : c.store = b.store
  phy : c.phy = b.phy
  train : c.train = { b.train with cap := c.train.cap, lstat := c.train.lstat }
  cap : a ≠ .capability → c.train.cap = b.train.cap
  lstat : a ≠ .linkStatus → c.train.lstat = b.train.lstat
  busy : c.loc.busy = b.loc.busy
  st : c.loc.st = b.loc.st
  ret : c.loc.ret = b.loc.ret

theorem AccessKeeps.trans {a : Access} {b c d : Block} (h : AccessKeeps a b c) (k : AccessKeeps a c d) : AccessKeeps a b d where
  store := k.store.trans h.store
  phy := k.phy.trans h.phy
  train := by rw [k.train, h.train]
  cap ha := (k.cap ha).trans (h.cap ha)
  lstat ha := (k.lstat ha).trans (h.lstat ha)
  busy := k.busy.trans h.busy
  st := k.st.trans h.st
  ret := k.ret.trans h.ret

/-- Where the training registers, the shadows, the store and the locals agree, an access has kept what it keeps. -/
theorem AccessKeeps.of_eq {a : Access} {b c : Block} (store : c.store = b.store) (phy : c.phy = b.phy) (train : c.train = b.train)
    (loc : c.loc = b.loc) : AccessKeeps a b c :=
  ⟨store, phy, by rw [train], fun _ => by rw [train], fun _ => by rw [train], by rw [loc], by rw [loc], by rw [loc]⟩

/-- An access that is neither the capability nor the link-status read leaves the training registers. -/
theorem AccessKeeps.train_eq {a : Access} {b c : Block} (h : AccessKeeps a b c) (hc : a ≠ .capability) (hl : a ≠ .linkStatus) :
    c.train = b.train := by
  rw [h.train, h.cap hc, h.lstat hl]

/-- What a success stores is the access's own register (R193, R204, R222, R240 to R244). -/
theorem store_keeps (a : Access) (b : Block) : AccessKeeps a b (a.store b) where
  store := store_store a b
  phy := store_phy a b
  train := by cases a <;> rfl
  cap ha := by cases a <;> simp_all [Access.store]
  lstat ha := by cases a <;> simp_all [Access.store]
  busy := by cases a <;> rfl
  st := by cases a <;> rfl
  ret := by cases a <;> rfl

theorem store_steady (a : Access) (b : Block) : Steady b (a.store b) :=
  ⟨store_port a b, store_faults a b, store_refused a b, by rw [store_svc], by rw [store_hist]⟩

/-- What a wrapper does with a result (R150). -/
theorem accessResult_keeps (a : Access) (x : Xfer) (b : Block) :
    Steady b (accessResult a x b) ∧ AccessKeeps a b (accessResult a x b) := by
  let b' : Block := { b with ibuf := b.ibuf.put x.data, loc.ok := succeeded a x, loc.defer := deferred x }
  have steady : Steady b b' := ⟨rfl, rfl, rfl, rfl, List.prefix_rfl⟩
  have keeps : AccessKeeps a b b' := ⟨rfl, rfl, rfl, fun _ => rfl, fun _ => rfl, rfl, rfl, rfl⟩
  unfold accessResult
  split
  · exact ⟨steady.trans (store_steady a b'), keeps.trans (store_keeps a b')⟩
  · exact ⟨steady, keeps⟩

/-- An issue with no transaction in flight (R150, R151). -/
theorem accessIssue_keeps {a : Access} {b : Block} (h : b.aux.fsm = .idle) :
    (accessIssue a b).1 = .norm ∧ Steady b (accessIssue a b).2 ∧ AccessKeeps a b (accessIssue a b).2 := by
  rw [accessIssue_idle h, auxIssue_idle h]
  exact ⟨rfl, ⟨rfl, rfl, rfl, rfl, List.prefix_append _ _⟩, .of_eq rfl rfl rfl rfl⟩

/-- The engine's log leaves everything but the history. -/
theorem logXfer_steady (x : Xfer) (b : Block) : Steady b (logXfer x b) := by
  unfold logXfer
  split
  · exact steady_log _ b
  · exact .refl b

/-- A completion (R149 to R151). -/
theorem accessComplete_keeps (a : Access) (b : Block) :
    Steady b (accessComplete a b) ∧ AccessKeeps a b (accessComplete a b) := by
  cases h : b.aux.fsm with
  | idle => rw [accessComplete, auxComplete_idle h]; exact ⟨.refl b, .of_eq rfl rfl rfl rfl⟩
  | wait =>
  rw [accessComplete, auxComplete_wait h]
  obtain ⟨x, env'⟩ := b.env.nextAux b.aux.req b.aux.wdata
  let c := logXfer (xferResult b.aux.req x) (takeAnswer x { b with env := env' })
  have steady : Steady b c := by
    refine Steady.trans ⟨?_, ?_, ?_, ?_, ?_⟩ (logXfer_steady _ _) <;> simp [takeAnswer_hist]
  have keeps : AccessKeeps a b c := .of_eq (by simp [c]) (by simp [c]) (by simp [c]) (by simp [c])
  obtain ⟨hs, hk⟩ := accessResult_keeps a (xferResult b.aux.req x) c
  exact ⟨steady.trans hs, keeps.trans hk⟩

/-- A checked access with no transaction in flight raises no fault, leaves none in flight, and writes only what it may. -/
theorem runAccess_keeps {hook : Block → Block} (g : Gentle hook) (a : Access) :
    Runs (fun b => b.aux.fsm = .idle) (fun sig => sig = .norm) (fun b c => Steady b c ∧ AccessKeeps a b c) (runAccess hook a) := by
  have trans : ∀ x y z, Steady x y ∧ AccessKeeps a x y → Steady y z ∧ AccessKeeps a y z → Steady x z ∧ AccessKeeps a x z :=
    fun _ _ _ h k => ⟨h.1.trans k.1, h.2.trans k.2⟩
  have keeps : ∀ b, Steady b (hook b) ∧ AccessKeeps a b (hook b) := fun b =>
    ⟨g.steady b, .of_eq (g.same b).store (g.same b).phy (g.same b).train (g.same b).loc⟩
  exact runAccess_runs rfl (fun b => ⟨.refl b, .of_eq rfl rfl rfl rfl⟩) trans
    (accessOnce_runs (J := fun _ => True) trans (fun b h => ⟨(g.fsm b).trans h, keeps b⟩) (fun b _ => ⟨trivial, keeps b⟩)
      (fun b h => ⟨(accessIssue_keeps h).1, trivial, (accessIssue_keeps h).2⟩)
      (fun b _ => ⟨rfl, trivial, accessComplete_keeps a b⟩) (fun b _ => accessComplete_fsm a b))

/-! ### The rules -/

/-- A micro-step that is no AUX issue or completion and writes no register of the host. -/
def Act.plain : Act → Bool
  | .phy _ => true
  | .delay _ => true
  | .upd .paramGet => false
  | .upd .paramSession => false
  | .upd _ => true
  | _ => false

/-- The log of levels whose sum is too high writes the history only (R178). -/
theorem logDriveSum_eq (c : PhyAct) (b : Block) : logDriveSum c b = { b with hist := (logDriveSum c b).hist } := by
  cases c with
  | driveLane lane =>
    simp only [logDriveSum]
    split <;> rfl
  | _ => rfl

@[simp] theorem logDriveSum_aux (c : PhyAct) (b : Block) : (logDriveSum c b).aux = b.aux := by rw [logDriveSum_eq]
@[simp] theorem logDriveSum_train (c : PhyAct) (b : Block) : (logDriveSum c b).train = b.train := by rw [logDriveSum_eq]
@[simp] theorem logDriveSum_store (c : PhyAct) (b : Block) : (logDriveSum c b).store = b.store := by rw [logDriveSum_eq]
@[simp] theorem logDriveSum_phy (c : PhyAct) (b : Block) : (logDriveSum c b).phy = b.phy := by rw [logDriveSum_eq]
@[simp] theorem logDriveSum_loc (c : PhyAct) (b : Block) : (logDriveSum c b).loc = b.loc := by rw [logDriveSum_eq]
@[simp] theorem logDriveSum_env (c : PhyAct) (b : Block) : (logDriveSum c b).env = b.env := by rw [logDriveSum_eq]
@[simp] theorem logDriveSum_svc (c : PhyAct) (b : Block) : (logDriveSum c b).svc = b.svc := by rw [logDriveSum_eq]

theorem logDriveSum_hist (c : PhyAct) (b : Block) : b.hist <+: (logDriveSum c b).hist := by
  cases c with
  | driveLane lane =>
    simp only [logDriveSum]
    split
    · exact List.prefix_append _ _
    · exact List.prefix_rfl
  | _ => exact List.prefix_rfl

/-- The PHY's answer uses up its own answers only. -/
theorem nextPhy_eq (e : Env) : e.nextPhy.2 = { e with phy := e.nextPhy.2.phy, phyCount := e.nextPhy.2.phyCount } := by
  unfold Env.nextPhy
  split
  · rfl
  · split <;> rfl

theorem hwOp_env (c : HwCmd) (b : Block) :
    (hwOp c b).env = { b.env with phy := (hwOp c b).env.phy, phyCount := (hwOp c b).env.phyCount } := by
  cases h : c.waits with
  | false => simp [hwOp, h]
  | true => simpa [hwOp, h] using nextPhy_eq b.env

@[simp] theorem hwOp_env_aux (c : HwCmd) (b : Block) : (hwOp c b).env.aux = b.env.aux := by rw [hwOp_env]
@[simp] theorem hwOp_env_irq (c : HwCmd) (b : Block) : (hwOp c b).env.irq = b.env.irq := by rw [hwOp_env]
@[simp] theorem hwOp_env_irqQuiet (c : HwCmd) (b : Block) : (hwOp c b).env.irqQuiet = b.env.irqQuiet := by rw [hwOp_env]
@[simp] theorem hwOp_env_irqCount (c : HwCmd) (b : Block) : (hwOp c b).env.irqCount = b.env.irqCount := by rw [hwOp_env]

theorem phyAct_steady (c : PhyAct) (b : Block) : Steady b (phyAct c b) := by
  have drive : Steady b (logDriveSum c b) := by
    rw [logDriveSum_eq]
    exact ⟨rfl, rfl, rfl, rfl, logDriveSum_hist c b⟩
  exact drive.trans ⟨rfl, rfl, rfl, rfl, List.prefix_append _ _⟩

/-- A PHY command writes the shadows for the answer it got, the event and the answer; nothing else but the log before it. -/
theorem phyAct_phy (c : PhyAct) (b : Block) : (phyAct c b).phy = (c.command b).shadow (phyAct c b).loc.busy b.phy := by
  rw [← logDriveSum_phy c b]
  rfl

theorem phyAct_loc (c : PhyAct) (b : Block) : (phyAct c b).loc = { b.loc with busy := (phyAct c b).loc.busy } := by
  rw [← logDriveSum_loc c b]
  rfl

@[simp] theorem phyAct_aux (c : PhyAct) (b : Block) : (phyAct c b).aux = b.aux := by simp [phyAct]
@[simp] theorem phyAct_train (c : PhyAct) (b : Block) : (phyAct c b).train = b.train := by simp [phyAct]
@[simp] theorem phyAct_store (c : PhyAct) (b : Block) : (phyAct c b).store = b.store := by simp [phyAct]
@[simp] theorem phyAct_env_aux (c : PhyAct) (b : Block) : (phyAct c b).env.aux = b.env.aux := by simp [phyAct]
@[simp] theorem phyAct_env_irq (c : PhyAct) (b : Block) : (phyAct c b).env.irq = b.env.irq := by simp [phyAct]
@[simp] theorem phyAct_env_irqQuiet (c : PhyAct) (b : Block) : (phyAct c b).env.irqQuiet = b.env.irqQuiet := by simp [phyAct]
@[simp] theorem phyAct_env_irqCount (c : PhyAct) (b : Block) : (phyAct c b).env.irqCount = b.env.irqCount := by simp [phyAct]

/-- The event of a PHY command, after the log before it. -/
theorem phyAct_hist (c : PhyAct) (b : Block) :
    (phyAct c b).hist = (logDriveSum c b).hist ++ [.hwOp (c.command b) (phyAct c b).loc.busy] := rfl

/-- A command that does not wait, and every command of a ready PHY, is answered `Ok` (R37). -/
theorem phyAct_ready {c : PhyAct} {b : Block} (h : (c.command b).waits = false ∨ PhyOk b) : (phyAct c b).loc.busy = false := by
  obtain waits | ⟨phy, ready⟩ := h
  · simp [phyAct, hwOp, waits]
  · cases waits : (c.command b).waits <;> simp [phyAct, hwOp, waits, Env.nextPhy, phy, ready]

@[simp] theorem phyAct_svc (c : PhyAct) (b : Block) : (phyAct c b).svc = b.svc := by simp [phyAct]

/-- A plain micro-step ends normally, leaves the engine, and writes nothing of the host's. -/
theorem runAct_plain {a : Act} (h : a.plain = true) (b : Block) :
    (runAct a b).1 = .norm ∧ (runAct a b).2.aux = b.aux ∧ Steady b (runAct a b).2 := by
  cases a with
  | phy c => exact ⟨rfl, phyAct_aux c b, phyAct_steady c b⟩
  | delay l => exact ⟨rfl, rfl, steady_log _ b⟩
  | upd u =>
    refine ⟨rfl, ?_⟩
    cases u with
    | paramGet => cases h
    | paramSession => cases h
    | fecGiveUp => exact ⟨rfl, ⟨rfl, rfl, rfl, rfl, List.prefix_append _ _⟩⟩
    | irqBegin => exact ⟨rfl, ⟨rfl, rfl, rfl, rfl, List.prefix_append _ _⟩⟩
    | _ => exact ⟨rfl, ⟨rfl, rfl, rfl, rfl, List.prefix_rfl⟩⟩
  | _ => cases h

/-- How a piece of code ended, where it raised no fault. -/
def Ends (N B R : Block → Prop) (r : Sig × Block) : Prop :=
  match r.1 with
  | .norm => N r.2
  | .brk => B r.2
  | .ret => R r.2
  | .halt => False

/-- From every state with `P` and no transaction in flight, the code raises no fault, leaves no transaction in flight, writes nothing
of the host's, and ends with `N` where it runs on, with `B` where it leaves a loop, with `R` where it returns. -/
def Triple (hook : Block → Block) (P : Block → Prop) (c : Code) (N B R : Block → Prop) : Prop :=
  ∀ b, b.aux.fsm = .idle → P b →
    (runCode hook c b).2.aux.fsm = .idle ∧ Steady b (runCode hook c b).2 ∧ Ends N B R (runCode hook c b)

section
variable {hook : Block → Block} {P M N B R : Block → Prop} {c d : Code}

theorem Triple.weaken {P' N' B' R' : Block → Prop} (h : Triple hook P c N B R) (hP : ∀ b, P' b → P b) (hN : ∀ b, N b → N' b)
    (hB : ∀ b, B b → B' b) (hR : ∀ b, R b → R' b) : Triple hook P' c N' B' R' := by
  intro b hb hp
  obtain ⟨idle, steady, ends⟩ := h b hb (hP b hp)
  refine ⟨idle, steady, ?_⟩
  revert ends
  unfold Ends
  split
  · exact hN _
  · exact hB _
  · exact hR _
  · exact id

/-- The same of fewer states. -/
theorem Triple.pre {P' : Block → Prop} (h : Triple hook P c N B R) (hP : ∀ b, P' b → P b) : Triple hook P' c N B R :=
  h.weaken hP (fun _ => id) (fun _ => id) (fun _ => id)

/-- A weaker end. -/
theorem Triple.post {N' : Block → Prop} (h : Triple hook P c N B R) (hN : ∀ b, N b → N' b) : Triple hook P c N' B R :=
  h.weaken (fun _ => id) hN (fun _ => id) (fun _ => id)

/-- A start that leaves something open: the triple for each of its values. -/
theorem Triple.exists {α : Type} {A : α → Prop} {P : α → Block → Prop} (h : ∀ x, A x → Triple hook (P x) c N B R) :
    Triple hook (fun b => ∃ x, A x ∧ P x b) c N B R := fun b hb ⟨x, hx, hp⟩ => h x hx b hb hp

/-- A branch that no state with `P` takes. -/
theorem Triple.absurd (h : ∀ b, ¬ P b) : Triple hook P c N B R := fun b _ hp => (h b hp).elim

/-- Two triples of one code, together where it runs on. -/
theorem Triple.and {P' N' B' R' : Block → Prop} (h : Triple hook P c N B R) (k : Triple hook P' c N' B' R') :
    Triple hook (fun b => P b ∧ P' b) c (fun b => N b ∧ N' b) B R := by
  intro b hb ⟨hp, hp'⟩
  obtain ⟨idle, steady, ends⟩ := h b hb hp
  obtain ⟨-, -, ends'⟩ := k b hb hp'
  refine ⟨idle, steady, ?_⟩
  revert ends ends'
  unfold Ends
  split
  · exact And.intro
  · exact fun h _ => h
  · exact fun h _ => h
  · exact fun h _ => h

theorem Triple.skip : Triple hook P .skip P B R := fun b hb hp => ⟨hb, .refl b, hp⟩

theorem Triple.brk : Triple hook P .brk N P R := fun b hb hp => ⟨hb, .refl b, hp⟩

theorem Triple.ret {st : Status} (h : ∀ b, P b → R { b with loc.ret := st }) : Triple hook P (.ret st) N B R :=
  fun b hb hp => ⟨hb, ⟨rfl, rfl, rfl, rfl, List.prefix_rfl⟩, h b hp⟩

theorem Triple.retSt (h : ∀ b, P b → R { b with loc.ret := b.loc.st }) : Triple hook P .retSt N B R :=
  fun b hb hp => ⟨hb, ⟨rfl, rfl, rfl, rfl, List.prefix_rfl⟩, h b hp⟩

theorem Triple.mark {m : Option MicroStep} (h : ∀ b, P b → N { b with train.micro := m }) : Triple hook P (.mark m) N B R :=
  fun b hb hp => ⟨hb, ⟨rfl, rfl, rfl, rfl, List.prefix_rfl⟩, h b hp⟩

theorem Triple.first {a : Act} (ha : a.plain = true) (h : ∀ b, P b → N (runAct a b).2) : Triple hook P (.first a) N B R := by
  intro b hb hp
  obtain ⟨norm, aux, steady⟩ := runAct_plain ha b
  exact ⟨by rw [runCode, aux, hb], steady, by simpa only [runCode, Ends, norm] using h b hp⟩

theorem Triple.act {a : Act} (g : Gentle hook) (ha : a.plain = true) (h : ∀ b, P b → N (runAct a (hook b)).2) :
    Triple hook P (.act a) N B R := by
  intro b hb hp
  obtain ⟨norm, aux, steady⟩ := runAct_plain ha (hook b)
  exact ⟨by rw [runCode, aux, g.fsm, hb], (g.steady b).trans steady, by simpa only [runCode, Ends, norm] using h b hp⟩

theorem Triple.access {a : Access} (g : Gentle hook) (h : ∀ b k, P b → AccessKeeps a b k → N k) :
    Triple hook P (.access a) N B R := by
  intro b hb hp
  obtain ⟨norm, idle, steady, keeps⟩ := runAccess_keeps g a b hb
  exact ⟨idle, steady, by simpa only [runCode, Ends, norm] using h b _ hp keeps⟩

theorem Triple.cond {t : Test} (hc : Triple hook (fun b => P b ∧ evalTest t b = true) c N B R)
    (hd : Triple hook (fun b => P b ∧ evalTest t b = false) d N B R) : Triple hook P (.cond t c d) N B R := by
  intro b hb hp
  cases ht : evalTest t b with
  | true => simpa only [runCode, ht, if_true] using hc b hb ⟨hp, ht⟩
  | false => simpa only [runCode, ht, Bool.false_eq_true, if_false] using hd b hb ⟨hp, ht⟩

/-- A test that the state passes. -/
theorem Triple.condTrue {hook : Block → Block} {x : Test} (hP : ∀ b, P b → evalTest x b = true) (hc : Triple hook P c N B R) :
    Triple hook P (.cond x c d) N B R :=
  .cond (hc.pre fun _ => And.left) (.absurd fun b hb => by simp [hP b hb.1] at hb)

/-- A test that the state fails. -/
theorem Triple.condFalse {hook : Block → Block} {x : Test} (hP : ∀ b, P b → evalTest x b = false) (hd : Triple hook P d N B R) :
    Triple hook P (.cond x c d) N B R :=
  .cond (.absurd fun b hb => by simp [hP b hb.1] at hb) (hd.pre fun _ => And.left)

theorem Triple.seq (hc : Triple hook P c M B R) (hd : Triple hook M d N B R) : Triple hook P (.seq c d) N B R := by
  intro b hb hp
  obtain ⟨idle, steady, ends⟩ := hc b hb hp
  rcases hr : runCode hook c b with ⟨sig, b'⟩
  rw [hr] at idle steady ends
  cases sig with
  | norm =>
    obtain ⟨idle', steady', ends'⟩ := hd b' idle ends
    simpa only [runCode, hr] using ⟨idle', steady.trans steady', ends'⟩
  | halt => exact ends.elim
  | _ => simpa only [runCode, hr] using ⟨idle, steady, ends⟩

/-- A loop whose body keeps `P`; it is left by `brk`, or when the count is used up. -/
theorem Triple.loop {n : Nat} (hc : Triple hook P c P N R) (hN : ∀ b, P b → N b) : Triple hook P (.loop n c) N B R := by
  show ∀ b, b.aux.fsm = .idle → P b → _
  simp only [runCode]
  induction n with
  | zero => exact fun b hb hp => ⟨hb, .refl b, hN b hp⟩
  | succ n ih =>
    intro b hb hp
    obtain ⟨idle, steady, ends⟩ := hc b hb hp
    rcases hr : runCode hook c b with ⟨sig, b'⟩
    rw [hr] at idle steady ends
    cases sig with
    | norm =>
      obtain ⟨idle', steady', ends'⟩ := ih b' idle ends
      simpa only [iterate, hr] using ⟨idle', steady.trans steady', ends'⟩
    | halt => exact ends.elim
    | _ => simpa only [iterate, hr] using ⟨idle, steady, ends⟩

theorem Triple.loopZero : Triple hook P (.loop 0 c) P B R := fun b hb hp => ⟨hb, .refl b, hp⟩

/-- A loop whose first round is known. -/
theorem Triple.loopStep {n : Nat} (hc : Triple hook P c M N R) (hd : Triple hook M (.loop n c) N B R) :
    Triple hook P (.loop (n + 1) c) N B R := by
  intro b hb hp
  obtain ⟨idle, steady, ends⟩ := hc b hb hp
  rcases hr : runCode hook c b with ⟨sig, b'⟩
  rw [hr] at idle steady ends
  cases sig with
  | norm =>
    obtain ⟨idle', steady', ends'⟩ := hd b' idle ends
    simpa only [runCode, iterate, hr] using ⟨idle', steady.trans steady', ends'⟩
  | halt => exact ends.elim
  | _ => simpa only [runCode, iterate, hr] using ⟨idle, steady, ends⟩

theorem Triple.call (hc : Triple hook P c N B N) : Triple hook P (.call c) N B R := by
  intro b hb hp
  obtain ⟨idle, steady, ends⟩ := hc b hb hp
  rcases hr : runCode hook c b with ⟨sig, b'⟩
  rw [hr] at idle steady ends
  cases sig with
  | halt => exact ends.elim
  | _ => simpa only [runCode, hr] using ⟨idle, steady, ends⟩

/-- What every atom of a code keeps, the code keeps; no atom leaves a loop. -/
theorem Triple.atoms {A : Code → Prop} {I : Block → Prop} (atoms : ∀ (B : Block → Prop) (c : Code), A c → Triple hook I c I B I) :
    ∀ (c : Code) (B : Block → Prop), c.Atoms A → Triple hook I c I B I := by
  intro c
  induction c with
  | cond t c d ihc ihd => exact fun B h => .cond ((ihc B h.1).pre fun _ => And.left) ((ihd B h.2).pre fun _ => And.left)
  | seq c d ihc ihd => exact fun B h => (ihc B h.1).seq (ihd B h.2)
  | loop n c ih => exact fun _ h => .loop (ih I h) (fun _ => id)
  | call c ih => exact fun B h => .call (ih B h)
  | _ => exact fun B h => atoms B _ h

end

/-! ### The sink service and the boundary (R262) -/

/-- The updates of the parser (R240 to R248). -/
def Update.ofParser : Update → Bool
  | .irqBegin => true
  | .irqTestTraining => true
  | .irqTestPhy => true
  | .irqCp => true
  | .irqError => true
  | _ => false

/-- The parts of the parser's code: its updates, its accesses, and returns. -/
def parserAtom : Code → Bool
  | .skip => true
  | .ret _ => true
  | .retSt => true
  | .first (.upd u) => u.ofParser
  | .act (.upd u) => u.ofParser
  | .access a => a != .capability && a != .linkStatus
  | _ => false

theorem parserCode_atoms : parserCode.Atoms fun c => parserAtom c = true := by
  simp [parserCode, testRequestCode, trainingTestCode, phyTestCode, testReadFailed, accessOr, block, Code.Atoms, parserAtom,
    Update.ofParser]

/-- The training registers, the PHY shadows and the parameter store are these. -/
def Regs (t : TrainRegs) (p : PhyRegs) (st : ParamStore) (b : Block) : Prop := b.train = t ∧ b.phy = p ∧ b.store = st

theorem Regs.gentle {hook : Block → Block} (g : Gentle hook) {t : TrainRegs} {p : PhyRegs} {st : ParamStore} {b : Block}
    (h : Regs t p st b) : Regs t p st (hook b) :=
  ⟨(g.same b).train.trans h.1, (g.same b).phy.trans h.2.1, (g.same b).store.trans h.2.2⟩

/-- A checked access other than the capability and the link-status read keeps them all. -/
theorem Regs.access {hook : Block → Block} (g : Gentle hook) {t : TrainRegs} {p : PhyRegs} {st : ParamStore} {B R : Block → Prop}
    {a : Access} (hc : a ≠ .capability) (hl : a ≠ .linkStatus) :
    Triple hook (Regs t p st) (.access a) (Regs t p st) B R :=
  .access g fun _ _ h keeps => ⟨(keeps.train_eq hc hl).trans h.1, keeps.phy.trans h.2.1, keeps.store.trans h.2.2⟩

theorem Regs.ofParser {u : Update} (hu : u.ofParser = true) {t : TrainRegs} {p : PhyRegs} {st : ParamStore} {b : Block}
    (h : Regs t p st b) : Regs t p st (runUpdate u b) := by
  cases u <;> simp_all [Update.ofParser, Regs, runUpdate]

theorem Update.plain_ofParser {u : Update} (h : u.ofParser = true) : (Act.upd u).plain = true := by
  cases u <;> simp_all [Update.ofParser, Act.plain]

/-- The parser raises no fault and leaves the training registers, the shadows and the store (R240, R262). -/
theorem parserCode_triple {hook : Block → Block} (g : Gentle hook) (t : TrainRegs) (p : PhyRegs) (st : ParamStore)
    {B : Block → Prop} : Triple hook (Regs t p st) parserCode (Regs t p st) B (Regs t p st) := by
  refine Triple.atoms (A := fun c => parserAtom c = true) (fun B c hc => ?_) _ B parserCode_atoms
  cases c with
  | skip => exact .skip
  | ret st => exact .ret fun _ => id
  | retSt => exact .retSt fun _ => id
  | first x =>
    cases x with
    | upd u => exact .first (Update.plain_ofParser hc) fun _ hb => hb.ofParser hc
    | _ => cases hc
  | act x =>
    cases x with
    | upd u => exact .act g (Update.plain_ofParser hc) fun _ hb => (hb.gentle g).ofParser hc
    | _ => cases hc
  | access x =>
    simp only [parserAtom, Bool.and_eq_true, bne_iff_ne, ne_eq] at hc
    exact Regs.access g hc.1 hc.2
  | _ => cases hc

/-- The parser's run in a service ends without a fault, and not by leaving a loop. -/
theorem service_keeps {b : Block} (h : b.aux.fsm = .idle) :
    let r := runCode quietBoundary parserCode (beginService b)
    r.1 ≠ .halt ∧ r.1 ≠ .brk ∧ r.2.aux.fsm = .idle ∧ Steady (beginService b) r.2 ∧ Regs b.train b.phy b.store r.2 := by
  obtain ⟨idle, steady, ends⟩ := parserCode_triple quietBoundary_gentle b.train b.phy b.store (B := fun _ => False) (beginService b) h
    ⟨rfl, rfl, rfl⟩
  revert idle steady ends
  rcases runCode quietBoundary parserCode (beginService b) with ⟨sig, c⟩
  intro idle steady ends
  cases sig with
  | norm => exact ⟨nofun, nofun, idle, steady, ends⟩
  | ret => exact ⟨nofun, nofun, idle, steady, ends⟩
  | _ => exact ends.elim

/-- A service runs from its start to its end (R262). -/
theorem runService_eq {b : Block} (h : b.aux.fsm = .idle) :
    runService b = endService b.loc (runCode quietBoundary parserCode (beginService b)).2 := by
  have halt := (service_keeps h).1
  revert halt
  unfold runService
  rcases runCode quietBoundary parserCode (beginService b) with ⟨sig, c⟩
  cases sig <;> simp

theorem serviceAdmitted_iff (b : Block) :
    serviceAdmitted b = true ↔ b.svc.pending = true ∧ b.svc.active = false ∧ b.aux.fsm = .idle := by
  simp [serviceAdmitted, and_assoc]

theorem endService_hist (saved : Locals) (b : Block) : b.hist <+: (endService saved b).hist := by
  unfold endService
  split
  · exact List.prefix_rfl
  · exact List.prefix_append _ _

@[simp] theorem endService_aux (saved : Locals) (b : Block) : (endService saved b).aux = b.aux := by unfold endService; split <;> rfl
@[simp] theorem endService_port (saved : Locals) (b : Block) : (endService saved b).port = b.port := by unfold endService; split <;> rfl
@[simp] theorem endService_store (saved : Locals) (b : Block) : (endService saved b).store = b.store := by
  unfold endService; split <;> rfl
@[simp] theorem endService_train (saved : Locals) (b : Block) : (endService saved b).train = b.train := by
  unfold endService; split <;> rfl
@[simp] theorem endService_phy (saved : Locals) (b : Block) : (endService saved b).phy = b.phy := by unfold endService; split <;> rfl
@[simp] theorem endService_faults (saved : Locals) (b : Block) : (endService saved b).faults = b.faults := by
  unfold endService; split <;> rfl
@[simp] theorem endService_refused (saved : Locals) (b : Block) : (endService saved b).refused = b.refused := by
  unfold endService; split <;> rfl
@[simp] theorem endService_env (saved : Locals) (b : Block) : (endService saved b).env = b.env := by unfold endService; split <;> rfl
@[simp] theorem endService_loc (saved : Locals) (b : Block) : (endService saved b).loc = saved := by unfold endService; split <;> rfl
@[simp] theorem endService_active (saved : Locals) (b : Block) : (endService saved b).svc.active = false := by
  unfold endService; split <;> rfl

/-- What is true of a boundary at one state: it writes only what a service may write, and leaves the engine's state. -/
def GentleAt (a b : Block) : Prop :=
  SameButService a b ∧ b.aux.fsm = a.aux.fsm ∧ b.svc.active = a.svc.active ∧ a.hist <+: b.hist

theorem GentleAt.trans (a b c : Block) (h : GentleAt a b) (k : GentleAt b c) : GentleAt a c := by
  obtain ⟨⟨h1, h2, h3, h4, h5, h6, h7⟩, hf, ha, hh⟩ := h
  obtain ⟨⟨k1, k2, k3, k4, k5, k6, k7⟩, kf, ka, kh⟩ := k
  exact ⟨⟨k1.trans h1, k2.trans h2, k3.trans h3, k4.trans h4, k5.trans h5, k6.trans h6, k7.trans h7⟩, kf.trans hf, ka.trans ha,
    hh.trans kh⟩

/-- A service that is admitted writes only its own registers (R262, R266). -/
theorem runService_gentle (b : Block) (h : serviceAdmitted b = true) : GentleAt b (runService b) := by
  obtain ⟨-, active, idle⟩ := (serviceAdmitted_iff b).1 h
  obtain ⟨-, -, idle', steady, train, phy, store⟩ := service_keeps idle
  rw [runService_eq idle]
  refine ⟨⟨?_, ?_, ?_, ?_, ?_, ?_, ?_⟩, ?_, ?_, steady.hist.trans (endService_hist _ _)⟩
  · rw [endService_port, steady.port, beginService_port]
  · rw [endService_store, store]
  · rw [endService_train, train]
  · rw [endService_phy, phy]
  · rw [endService_faults, steady.faults, beginService_faults]
  · rw [endService_refused, steady.refused, beginService_refused]
  · rw [endService_loc]
  · rw [endService_aux, idle', idle]
  · rw [endService_active, active]

/-- The boundary with its services writes only what a service may write (R262). -/
theorem boundary_gentle : Gentle boundary := by
  have all : ∀ b, GentleAt b (boundary b) :=
    boundary_keeps (fun _ => ⟨⟨rfl, rfl, rfl, rfl, rfl, rfl, rfl⟩, rfl, rfl, List.prefix_rfl⟩) GentleAt.trans
      (fun _ => ⟨⟨rfl, rfl, rfl, rfl, rfl, rfl, rfl⟩, rfl, rfl, List.prefix_rfl⟩) runService_gentle
  exact ⟨fun b => (all b).1, fun b => (all b).2.1, fun b => (all b).2.2.1, fun b => (all b).2.2.2⟩

@[simp] theorem boundary_train (b : Block) : (boundary b).train = b.train := (boundary_gentle.same b).train
@[simp] theorem boundary_phy (b : Block) : (boundary b).phy = b.phy := (boundary_gentle.same b).phy
@[simp] theorem boundary_store (b : Block) : (boundary b).store = b.store := (boundary_gentle.same b).store
@[simp] theorem boundary_loc (b : Block) : (boundary b).loc = b.loc := (boundary_gentle.same b).loc

/-! ### A whole command -/

/-- A command whose code raises no fault, from a state with no transaction in flight: it ends with the status its code returned, and
what the code's triple says of the block before the end holds. -/
theorem exec_of_triple {i : Instr} {s : State} {P R : Block → Prop} (h : Triple boundary P (codeOf i) R (fun _ => False) R)
    (idle : s.blk.aux.fsm = .idle) (hP : P (log (.cmdStart (opcodeOf i)) s.blk)) :
    ∃ c, exec i s = .next { s with blk := endCommand c } ∧ R c ∧ c.aux.fsm = .idle ∧
      Steady (log (.cmdStart (opcodeOf i)) s.blk) c := by
  obtain ⟨idle', steady, ends⟩ := h (log (.cmdStart (opcodeOf i)) s.blk) idle hP
  rw [exec_eq, runCommand]
  rcases hr : runCode boundary (codeOf i) (log (.cmdStart (opcodeOf i)) s.blk) with ⟨sig, c⟩
  rw [hr] at idle' steady ends
  cases sig with
  | norm => exact ⟨c, rfl, ends, idle', steady⟩
  | ret => exact ⟨c, rfl, ends, idle', steady⟩
  | _ => exact ends.elim

end Sys2Proof.Machine
end

section
/-! PROOFS. How the training commands end, whatever the agents do (spec/42_link_training.md R190 to R225). -/

namespace Sys2Proof.Machine

open Sys2Proof

/-! ### The parts that several steps share -/

/-- A step was aborted with this status (R200, R218). -/
def Aborted (st : Status) (b : Block) : Prop := b.loc.ret = st ∧ b.train.phase = .failedPending

section
variable {P N B R : Block → Prop}

theorem abortCode_triple {st : Status} (h : ∀ b, Aborted st b → R b) : Triple boundary P (abortCode st) N B R :=
  .seq (.first (N := fun b => b.train.phase = .failedPending) rfl fun _ _ => rfl) (.ret fun _ hb => h _ ⟨rfl, hb⟩)

/-- An access whose failure aborts the step, where nothing is to be said of what it reads. -/
theorem checked_triple {a : Access} (h : ∀ b, Aborted .protocolError b → R b) :
    Triple boundary (fun _ => True) (checked a) (fun _ => True) B R :=
  .seq (.access boundary_gentle fun _ _ _ _ => trivial)
    (.cond (Triple.skip.pre fun _ _ => trivial) (abortCode_triple h))

/-- A plain micro-step of which nothing is to be said. -/
theorem act_triple {a : Act} (h : a.plain = true) : Triple boundary P (.act a) (fun _ => True) B R :=
  .act boundary_gentle h fun _ _ => trivial

theorem mark_triple {m : Option MicroStep} : Triple boundary P (.mark m) (fun _ => True) B R := .mark fun _ _ => trivial

/-- A command's first test of its phase, in a phase that passes it. -/
theorem phaseIn_triple {ps : List Phase} {c d : Code} (hP : ∀ b, P b → b.train.phase ∈ ps) (h : Triple boundary P c N B R) :
    Triple boundary P (.cond (.phaseIn ps) c d) N B R :=
  .cond (h.pre fun _ k => k.1)
    (.absurd fun b k => by simpa [evalTest, hP b k.1] using k.2)

/-! ### Initialization (R192 to R200) -/

/-- How `Init()` ends. -/
def InitEnd (b : Block) : Prop := b.loc.ret = .ok ∧ b.train.phase = .initOk ∨ Aborted .protocolError b

theorem initCode_triple : Triple boundary (fun b => b.train.phase ∈ startPhases) initCode N B InitEnd := by
  have step {a : Access} : Triple boundary (fun _ => True) (checked a) (fun _ => True) B InitEnd := checked_triple fun _ => .inr
  have fec : Triple boundary (fun _ => True) (.cond .fecEn (checked .fecReady) .skip) (fun _ => True) B InitEnd :=
    .cond (step.pre fun _ _ => trivial)
      (Triple.skip.pre fun _ _ => trivial)
  refine phaseIn_triple (fun _ => id) ?_
  exact .seq (act_triple rfl) <| .seq step <| .seq (.seq fec (act_triple rfl)) <| .seq step <| .seq step <| .seq (act_triple rfl) <|
    .seq (act_triple rfl) <| .seq (act_triple rfl) <|
    .seq (.act (N := fun b => b.train.phase = .initOk) boundary_gentle rfl fun _ _ => rfl) (.ret fun _ hb => .inl ⟨rfl, hb⟩)

/-! ### Clock recovery and equalization (R201 to R216) -/

/-- How `Cr()` and `Eq()` end, with the phase of a success. -/
def StepEnd (success : Phase) (b : Block) : Prop :=
  b.loc.ret = .ok ∧ b.train.phase = success ∨ b.loc.ret = .retry ∧ b.train.phase = .retryPending ∨
    (b.loc.ret = .fatal ∨ b.loc.ret = .protocolError ∨ b.loc.ret = .busy) ∧ b.train.phase = .failedPending

theorem StepEnd.aborted {success : Phase} {b : Block} (h : Aborted .protocolError b) : StepEnd success b :=
  .inr (.inr ⟨.inr (.inl h.1), h.2⟩)

theorem StepEnd.busy {success : Phase} {b : Block} (h : Aborted .busy b) : StepEnd success b :=
  .inr (.inr ⟨.inr (.inr h.1), h.2⟩)

/-- Steps 1 to 3 of an iteration end normally or are aborted (R202 to R204, R211). -/
theorem iteration_triple {success : Phase} (eq : Bool) (l : DelayLabel) {rest : Code}
    (h : Triple boundary (fun _ => True) rest N B (StepEnd success)) :
    Triple boundary P (.seq (patternSetCode eq) (.seq (settleCode l) (.seq statusReadCode (.seq (.mark (some .convergenceCheck)) rest))))
      N B (StepEnd success) := by
  have step {a : Access} : Triple boundary (fun _ => True) (checked a) (fun _ => True) B (StepEnd success) :=
    checked_triple fun _ => .aborted
  have lane (i : Lane) : Triple boundary (fun _ => True) (driveLaneCode i) (fun _ => True) B (StepEnd success) :=
    .cond (act_triple rfl) (Triple.skip.pre fun _ _ => trivial)
  have drive : Triple boundary (fun _ => True) programDriveCode (fun _ => True) B (StepEnd success) :=
    .seq (lane 0) (.seq (lane 1) (.seq (lane 2) (lane 3)))
  exact .seq (.seq mark_triple (.seq drive (.seq (act_triple rfl) (.seq step step)))) <|
    .seq (.seq mark_triple (act_triple rfl)) <| .seq (.seq mark_triple step) <| .seq mark_triple h

/-- The success of a step (R205, R213). -/
theorem success_triple {success : Phase} :
    Triple boundary P (block [.act (.upd (.setPhase success)), .ret .ok]) N B (StepEnd success) :=
  .seq (.act (N := fun b => b.train.phase = success) boundary_gentle rfl fun _ _ => rfl) (.ret fun _ hb => .inl ⟨rfl, hb⟩)

theorem adjustCode_triple {n : Nat} : Triple boundary P (adjustCode n) (fun _ => True) (fun _ => True) R :=
  .seq mark_triple <| .seq (act_triple rfl) <| .seq (act_triple rfl) <|
    .cond (Triple.brk.pre fun _ _ => trivial) (Triple.skip.pre fun _ _ => trivial)

/-- The status of the ladder's step and its phase (R215). -/
theorem fallback_end (t : TrainRegs) :
    (fallback t).2 = .retry ∧ (fallback t).1.phase = .retryPending ∨
      (fallback t).2 = .fatal ∧ (fallback t).1.phase = .failedPending := by
  obtain ⟨-, h⟩ | ⟨n, -, -, h⟩ | ⟨-, -, h⟩ := fallback_cases t
  · exact .inl (by simp [h, retryWith])
  · exact .inl (by simp [h, retryWith])
  · exact .inr (by simp [h])

/-- The ladder's step and its status (R208, R215). -/
theorem fallbackCode_triple {success : Phase} : Triple boundary P fallbackCode N B (StepEnd success) := by
  refine .seq mark_triple <| .seq (.act (N := fun b => b.loc.st = .retry ∧ b.train.phase = .retryPending ∨
    b.loc.st = .fatal ∧ b.train.phase = .failedPending) boundary_gentle rfl fun b _ => fallback_end _) (.retSt fun b hb => ?_)
  obtain ⟨h, hp⟩ | ⟨h, hp⟩ := hb
  · exact .inr (.inl ⟨h, hp⟩)
  · exact .inr (.inr ⟨.inl h, hp⟩)

theorem crCode_triple :
    Triple boundary (fun b => b.train.phase ∈ [Phase.initOk, .retryPending]) crCode N B (StepEnd .crOk) := by
  have body : Triple boundary (fun _ => True) crIteration (fun _ => True) (fun _ => True) (StepEnd .crOk) :=
    iteration_triple false .crDelay <| .seq (.cond success_triple (Triple.skip.pre fun _ _ => trivial)) adjustCode_triple
  refine phaseIn_triple (fun _ => id) ?_
  exact .seq mark_triple <| .seq (act_triple rfl) <|
    .seq (.cond (Triple.skip.pre fun _ _ => trivial) (abortCode_triple fun _ => .busy)) <| .seq (act_triple rfl) <|
    .seq (act_triple rfl) <| .seq (.loop body fun _ => id) fallbackCode_triple

theorem eqCode_triple : Triple boundary (fun b => b.train.phase = .crOk) eqCode N B (StepEnd .eqOk) := by
  have body : Triple boundary (fun _ => True) eqIteration (fun _ => True) (fun _ => True) (StepEnd .eqOk) :=
    iteration_triple true .eqDelay <| .seq (.cond (Triple.skip.pre fun _ _ => trivial) (Triple.brk.pre fun _ _ => trivial)) <|
      .seq (.cond success_triple (Triple.skip.pre fun _ _ => trivial)) adjustCode_triple
  refine phaseIn_triple (fun b h => by simp [h]) ?_
  exact .seq mark_triple <| .seq (act_triple rfl) <| .seq (.loop body fun _ => id) fallbackCode_triple

/-! ### Completion (R219 to R225) -/

section
variable {t : TrainRegs} {p p' : PhyRegs} {st : ParamStore}

/-- A PHY command whose shadows do not depend on the PHY's answer. -/
theorem Regs.phyAct {c : PhyAct} (h : ∀ b busy, Regs t p st b → (c.command b).shadow busy p = p') :
    Triple boundary (Regs t p st) (.act (.phy c)) (Regs t p' st) B R := by
  refine .act boundary_gentle rfl fun b hb => ?_
  have hb := hb.gentle boundary_gentle
  exact ⟨(phyAct_train _ _).trans hb.1, by rw [runAct, phyAct_phy, hb.2.1, h _ _ hb], (phyAct_store _ _).trans hb.2.2⟩

/-- An internal update of the training registers. -/
theorem Regs.upd {u : Update} {f : TrainRegs → TrainRegs} (plain : (Act.upd u).plain = true)
    (h : ∀ b, Regs (f b.train) b.phy b.store (runUpdate u b)) :
    Triple boundary (Regs t p st) (.act (.upd u)) (Regs (f t) p st) B R := by
  refine .act boundary_gentle plain fun b hb => ?_
  obtain ⟨rfl, rfl, rfl⟩ := hb.gentle boundary_gentle
  exact h _

/-- The teardown (R220). -/
theorem teardownCode_triple :
    Triple boundary (Regs t p st) teardownCode
      (Regs { t with micro := none } { p with pattern := .known .none, video := .known false } st) B R := by
  refine .seq (M := Regs { t with micro := none } p st) (.mark fun _ hb => ?_) <|
    .seq (Regs.phyAct (p' := { p with pattern := .known .none }) fun _ _ _ => rfl) <| .seq (Regs.access boundary_gentle nofun nofun) <|
    Regs.phyAct fun _ _ _ => rfl
  exact ⟨by rw [← hb.1], hb.2⟩

/-- A triple whose start is taken apart into the registers it starts from. -/
theorem Triple.ofRegs {hook : Block → Block} {c : Code} (h : ∀ t p st, Triple hook (Regs t p st) c N B R) : Triple hook P c N B R :=
  fun b hb _ => h b.train b.phy b.store b hb ⟨rfl, rfl, rfl⟩

/-- How `Completed(0)` ends. -/
def FailEnd (b : Block) : Prop := b.loc.ret = .fatal ∧ FatalEnd b

/-- The teardown and the failure branch, from any state (R220, R221). -/
theorem completedFail_triple : Triple boundary P completedFail N B FailEnd := by
  refine .ofRegs fun t p st => .seq teardownCode_triple ?_
  have down {t : TrainRegs} {p : PhyRegs} (i : Lane) :
      Triple boundary (Regs t p st) (.act (.phy (.powerDown i))) (Regs t { p with power := p.power.set i .powerDown } st) B FailEnd :=
    Regs.phyAct fun _ _ _ => rfl
  refine .seq (Regs.phyAct fun _ _ _ => rfl) <| .seq (.seq (down 0) (.seq (down 1) (.seq (down 2) (down 3)))) <|
    .seq (Regs.upd (f := fun t => { t with resultValid := false, phase := .failed }) rfl fun _ => ⟨rfl, rfl, rfl⟩)
      (.ret fun b ⟨train, phy, _⟩ => ?_)
  have power : ∀ i : Lane, b.phy.power[i] = .powerDown := by
    intro i
    rw [phy]
    fin_cases i <;> simp
  exact ⟨rfl, by rw [train], by rw [phy], power, by rw [phy], by rw [phy], by rw [train]⟩

/-- The PHY's FEC is as it was, or, where the session asks for FEC, on or off. -/
def fecPhy (asked : Bool) (p : PhyRegs) (on : Bool) : PhyRegs := if asked then { p with fec := .known on } else p

@[simp] theorem fecPhy_pattern (asked : Bool) (p : PhyRegs) (on : Bool) : (fecPhy asked p on).pattern = p.pattern := by
  cases asked <;> rfl
@[simp] theorem fecPhy_video (asked : Bool) (p : PhyRegs) (on : Bool) : (fecPhy asked p on).video = p.video := by
  cases asked <;> rfl

/-- What the FEC branch leaves (R222, R223): FEC is active or not, never without a request, and the PHY's FEC agrees. -/
def FecDone (t : TrainRegs) (p : PhyRegs) (st : ParamStore) (b : Block) : Prop :=
  ∃ on, (t.sessionParam.fecEn = false → on = false) ∧ Regs { t with status.fecActive := on } (fecPhy t.sessionParam.fecEn p on) st b

/-- Between the FEC attempts: once the sink's bit was seen, the PHY's FEC is on. -/
def FecTrying (t : TrainRegs) (p : PhyRegs) (st : ParamStore) (b : Block) : Prop :=
  ∃ f, Regs t { p with fec := f } st b ∧ (b.loc.fecSeen = true → f = .known true)

/-- One attempt (R222), left when the sink's bit was seen. -/
theorem fecAttempt_triple : Triple boundary (FecTrying t p st) fecAttempt (FecTrying t p st) (FecTrying t p st) R := by
  let on := Regs t { p with fec := .known true } st
  have tried : ∀ b, on b → FecTrying t p st b := fun b hb => ⟨_, hb, fun _ => rfl⟩
  refine .seq (M := on) (.act boundary_gentle rfl fun b hb => ?_) <|
    .seq (.act boundary_gentle rfl fun b hb => hb.gentle boundary_gentle) <| .seq (Regs.access boundary_gentle nofun nofun) <|
    .cond (Triple.brk.pre fun b hb => tried b hb.1) (Triple.skip.pre fun b hb => tried b hb.1)
  obtain ⟨f, hb, -⟩ := hb
  have hb := hb.gentle boundary_gentle
  exact ⟨(phyAct_train _ _).trans hb.1, by rw [runAct, phyAct_phy, hb.2.1]; rfl, (phyAct_store _ _).trans hb.2.2⟩

/-- FEC enabling and give-up (R222, R223). -/
theorem fecCode_triple : Triple boundary (Regs t p st) fecCode (FecDone t p st) B R := by
  have active {t : TrainRegs} {p : PhyRegs} (on : Bool) :
      Triple boundary (Regs t p st) (.act (.upd (.fecActive on))) (Regs { t with status.fecActive := on } p st) B R :=
    Regs.upd (f := fun t => { t with status.fecActive := on }) rfl fun _ => ⟨rfl, rfl, rfl⟩
  cases asked : t.sessionParam.fecEn with
  | false =>
    refine .cond (.absurd fun b hb => by simpa [evalTest, hb.1.1, asked] using hb.2) (((active false).pre fun _ => And.left).post ?_)
    exact fun b hb => ⟨false, fun _ => rfl, by rwa [asked]⟩
  | true =>
    have done {on : Bool} (b : Block) (hb : Regs { t with status.fecActive := on } { p with fec := .known on } st b) :
        FecDone t p st b := ⟨on, fun h => by simp [asked] at h, by rwa [asked]⟩
    refine .cond ?_ (.absurd fun b hb => by simpa [evalTest, hb.1.1, asked] using hb.2)
    refine .seq (M := FecTrying t p st) (.act boundary_gentle rfl fun b hb => ?_) <|
      .seq (.loop fecAttempt_triple fun _ => id) <| .cond ?_ ?_
    · exact ⟨p.fec, hb.1.gentle boundary_gentle, nofun⟩
    · refine ((active (p := { p with fec := .known true }) true).pre ?_).post done
      rintro b ⟨⟨f, hb, hf⟩, seen⟩
      rwa [hf seen] at hb
    · refine .seq (M := Regs t { p with fec := .known false } st) (.act boundary_gentle rfl fun b hb => ?_)
        ((Regs.upd (f := fun t => { t with status.fecActive := false }) rfl fun _ => ⟨rfl, rfl, rfl⟩).post done)
      obtain ⟨⟨f, hb, -⟩, -⟩ := hb
      have hb := hb.gentle boundary_gentle
      exact ⟨(phyAct_train _ _).trans hb.1, by rw [runAct, phyAct_phy, hb.2.1]; rfl, (phyAct_store _ _).trans hb.2.2⟩

/-- How `Completed(1)` ends, from the registers it started with: `OK`, the result recorded (R224, R225). -/
def OkEnd (t : TrainRegs) (p : PhyRegs) (b : Block) : Prop :=
  b.loc.ret = .ok ∧ SuccessEnd b ∧
    b.train.status = { t.status with
      mbps := mbpsOf t.status.curRate, khz := khzOf t.status.curRate, fecActive := b.train.status.fecActive } ∧
    (t.sessionParam.fecEn = false → b.train.status.fecActive = false ∧ b.phy.fec = p.fec) ∧
    (t.sessionParam.fecEn = true → b.phy.fec = .known b.train.status.fecActive)

/-- `Completed(1)` after equalization (R219, R220, R222 to R225). -/
theorem completedOk_triple (h : t.phase = .eqOk) : Triple boundary (Regs t p st) completedOk N B (OkEnd t p) := by
  refine phaseIn_triple (fun b hb => by simp [hb.1, h]) <| .seq teardownCode_triple <| .seq fecCode_triple <|
    .exists fun on off => ?_
  refine .seq (Regs.upd (f := fun t => { t with status := negotiate t.status }) rfl fun _ => ⟨rfl, rfl, rfl⟩) <|
    .seq (Regs.upd (f := fun t => { t with result := t.status, resultValid := true, phase := .done }) rfl fun _ => ⟨rfl, rfl, rfl⟩)
    (.ret fun b ⟨train, phy, _⟩ => ⟨rfl, ⟨?_, ?_, ?_, ?_, ?_, ?_, ?_⟩, ?_, fun asked => ⟨?_, ?_⟩, fun asked => ?_⟩)
  · rw [train]
  · rw [train]
  · rw [train]
  · rw [train]; rfl
  · rw [train]; rfl
  · rw [phy, fecPhy_pattern]
  · rw [phy, fecPhy_video]
  · rw [train]; rfl
  · rw [train]; exact off asked
  · simp [phy, asked, fecPhy]
  · simp [phy, train, asked, fecPhy]

end

/-! ### The session driver (R191) -/

/-- How `TRAIN.START` ends (R226, R273). -/
def StartEnd (b : Block) : Prop := b.loc.ret = .ok ∧ SuccessEnd b ∨ FailEnd b

theorem completedFail_start : Triple boundary P completedFail N B StartEnd :=
  completedFail_triple.weaken (fun _ => id) (fun _ => id) (fun _ => id) (fun _ => .inr)

theorem completedOk_start : Triple boundary (fun b => b.train.phase = .eqOk) completedOk N B StartEnd := by
  intro b hb hp
  exact (completedOk_triple (t := b.train) (p := b.phy) (st := b.store) hp).weaken (fun _ => id) (fun _ => id) (fun _ => id)
    (fun _ h => .inl ⟨h.1, h.2.1⟩) b hb ⟨rfl, rfl, rfl⟩

/-- After a step that returned, its status and its phase (R191). -/
theorem StepEnd.phase_of_ok {success : Phase} {b : Block} (h : StepEnd success b) (ok : b.loc.ret = .ok) : b.train.phase = success := by
  obtain ⟨-, h⟩ | ⟨h, -⟩ | ⟨h | h | h, -⟩ := h
  · exact h
  all_goals simp [ok] at h

theorem StepEnd.phase_of_retry {success : Phase} {b : Block} (h : StepEnd success b) (retry : b.loc.ret = .retry) :
    b.train.phase = .retryPending := by
  obtain ⟨h, -⟩ | ⟨-, h⟩ | ⟨h | h | h, -⟩ := h
  · simp [retry] at h
  · exact h
  all_goals simp [retry] at h

/-- A test of the status returned. -/
theorem returned_triple {st : Status} {c d : Code} (hc : Triple boundary (fun b => P b ∧ b.loc.ret = st) c N B R)
    (hd : Triple boundary P d N B R) : Triple boundary P (.cond (.returned st) c d) N B R :=
  .cond (hc.pre fun _ h => ⟨h.1, by simpa [evalTest] using h.2⟩) (hd.pre fun _ h => h.1)

/-- One rung: it ends the session, or answers `Retry` in the phase that admits the next one. -/
theorem rungCode_triple :
    Triple boundary (fun b => b.train.phase ∈ [Phase.initOk, .retryPending]) rungCode
      (fun b => b.train.phase ∈ [Phase.initOk, .retryPending]) B StartEnd := by
  have again {success : Phase} : Triple boundary (fun b => StepEnd success b ∧ b.loc.ret = .retry) .skip
      (fun b => b.train.phase ∈ [Phase.initOk, .retryPending]) B StartEnd :=
    Triple.skip.pre fun b h => by simp [h.1.phase_of_retry h.2]
  refine .seq (.call crCode_triple) <| returned_triple again <|
    .seq (M := fun b => b.train.phase = .crOk) ?_ <| .seq (.call eqCode_triple) <| returned_triple again <|
    .seq (M := fun b => b.train.phase = .eqOk) ?_ completedOk_start
  · exact returned_triple (Triple.skip.pre fun _ h => h.1.phase_of_ok h.2) completedFail_start
  · exact returned_triple (Triple.skip.pre fun _ h => h.1.phase_of_ok h.2) completedFail_start

theorem startCode_triple : Triple boundary (fun b => b.train.phase ∈ startPhases) startCode N B StartEnd := by
  refine phaseIn_triple (fun _ => id) <| .seq (.call initCode_triple) <|
    .seq (M := fun b => b.train.phase ∈ [Phase.initOk, .retryPending]) ?_ <| .seq (.loop rungCode_triple fun _ => id) completedFail_start
  refine returned_triple (Triple.skip.pre ?_) completedFail_start
  rintro b ⟨⟨-, h⟩ | ⟨h, -⟩, ok⟩
  · simp [h]
  · simp [ok] at h

/-! ### Every training command, and `SINK.IRQ` (R13, R190, R240) -/

/-- A training command in a phase that lists it ends normally or returns (R190). -/
theorem codeOf_triple {i : Instr} {s : Phase} (h : i ∈ legalTraining s ∨ i = .sinkIrq) :
    Triple boundary (fun b => b.train.phase = s) (codeOf i) (fun _ => True) (fun _ => False) (fun _ => True) := by
  have any {P R : Block → Prop} {c : Code} (k : Triple boundary P c (fun _ => True) (fun _ => False) R)
      (hP : ∀ b, b.train.phase = s → P b) :
      Triple boundary (fun b => b.train.phase = s) c (fun _ => True) (fun _ => False) (fun _ => True) :=
    k.weaken hP (fun _ => id) (fun _ => id) (fun _ _ => trivial)
  cases i with
  | sinkIrq =>
    refine .ofRegs fun t p st => (parserCode_triple boundary_gentle t p st).weaken (fun _ => id) (fun _ _ => trivial) (fun _ => id)
      (fun _ _ => trivial)
  | trainStart => exact any startCode_triple (by cases s <;> simp_all [legalTraining, startPhases])
  | trainInit => exact any initCode_triple (by cases s <;> simp_all [legalTraining, startPhases])
  | trainCr => exact any crCode_triple (by cases s <;> simp_all [legalTraining])
  | trainEq => exact any eqCode_triple (by cases s <;> simp_all [legalTraining])
  | trainDone success =>
    cases success with
    | false => exact any completedFail_triple (fun _ => id)
    | true => exact any completedOk_start (by cases s <;> simp_all [legalTraining])
  | _ => cases s <;> simp [legalTraining] at h

end

end Sys2Proof.Machine
end

section
/-! PROOFS. O24, and what O34 and O35 say of every agent. -/

namespace Sys2Proof.Machine

open Sys2Proof

/-- The last event of a command whose code raised no fault. -/
theorem Steady.hist_endCommand {e : Event} {b c : Block} (h : Steady (log e b) c) :
    ∃ d, (endCommand c).hist = b.hist ++ [e] ++ d ++ [.cmdEnd c.loc.ret] := by
  obtain ⟨d, hd⟩ := h.hist
  exact ⟨d, by rw [endCommand_hist, ← hd, log_hist]⟩

/-- Settles O24: every training command has a triple that raises no fault from a phase that lists it, and so has the parser. -/
theorem legalCommandsEnd : Obligations.LegalCommandsEnd := by
  intro i s legal idle
  obtain ⟨c, eq, -, idle', steady⟩ := exec_of_triple (codeOf_triple legal) idle rfl
  obtain ⟨d, hist⟩ := steady.hist_endCommand
  exact ⟨endCommand c, c.loc.ret, d, eq, steady.faults, steady.refused, idle', steady.active, rfl, rfl, hist⟩

theorem FatalEnd.endCommand {b : Block} (h : FatalEnd b) : FatalEnd (endCommand b) := h

theorem SuccessEnd.endCommand {b : Block} (h : SuccessEnd b) : SuccessEnd (endCommand b) := h

/-- `TRAIN.DONE 0`, whatever the agents do. -/
theorem trainDone_fail (s : State) (idle : s.blk.aux.fsm = .idle) :
    ∃ b, exec (.trainDone false) s = .next { s with blk := b } ∧ b.port.resStatus = 6 ∧ FatalEnd b := by
  have triple : Triple boundary (fun _ => True) (codeOf (.trainDone false)) FailEnd (fun _ => False) FailEnd := completedFail_triple
  obtain ⟨c, eq, ⟨ret, fatal⟩, -, -⟩ := exec_of_triple triple idle trivial
  exact ⟨_, eq, by rw [endCommand_resStatus, ret]; rfl, fatal.endCommand⟩

/-- A `TRAIN.START` that ends `Fatal`. -/
theorem trainStart_fatal {s : State} {b : Block} (legal : .trainStart ∈ legalTraining s.blk.train.phase)
    (idle : s.blk.aux.fsm = .idle) (eq : exec .trainStart s = .next { s with blk := b }) (status : b.port.resStatus = 6) :
    FatalEnd b := by
  have phase : s.blk.train.phase ∈ startPhases := by
    revert legal
    cases s.blk.train.phase <;> decide
  have triple : Triple boundary (fun b => b.train.phase ∈ startPhases) (codeOf .trainStart) StartEnd (fun _ => False) StartEnd :=
    startCode_triple
  obtain ⟨c, eq', ends, -, -⟩ := exec_of_triple triple idle phase
  obtain rfl : b = endCommand c := by
    rw [eq'] at eq
    injection eq with eq
    injection eq with eq
    exact eq.symm
  obtain ⟨ret, -⟩ | ⟨-, fatal⟩ := ends
  · rw [endCommand_resStatus, ret] at status
    exact absurd status (by decide)
  · exact fatal.endCommand

/-- `TRAIN.DONE 1` after equalization, whatever the agents do. -/
theorem trainDone_ok (s : State) (phase : s.blk.train.phase = .eqOk) (idle : s.blk.aux.fsm = .idle) :
    ∃ c, exec (.trainDone true) s = .next { s with blk := endCommand c } ∧ OkEnd s.blk.train s.blk.phy c := by
  have triple : Triple boundary (Regs s.blk.train s.blk.phy s.blk.store) (codeOf (.trainDone true)) (OkEnd s.blk.train s.blk.phy)
      (fun _ => False) (OkEnd s.blk.train s.blk.phy) := completedOk_triple phase
  obtain ⟨c, eq, ends, -, -⟩ := exec_of_triple triple idle ⟨rfl, rfl, rfl⟩
  exact ⟨c, eq, ends⟩

end Sys2Proof.Machine
end

section
/-! PROOFS. A checked access whose answer is known (spec/40_aux_engine.md R128 to R151). -/

namespace Sys2Proof.Machine

open Sys2Proof

/-! ### Buffers -/

theorem Buf.put_get (b : Buf) (l : List Byte) (i : Nat) (h : i < 16) : (b.put l)[i] = (l[i]?).getD b[i] := by
  simp [Buf.put]

theorem Buf.first_get? (b : Buf) {n i : Nat} (hn : i < n) (h : i < 16) : (b.first n)[i]? = some b[i] := by
  simp [Buf.first, hn, h]

/-- Bytes copied from another buffer. -/
theorem Buf.put_first_get (b d : Buf) {n i : Nat} (hn : i < n) (h : i < 16) : (b.put (d.first n))[i] = d[i] := by
  rw [Buf.put_get, Buf.first_get? d hn h, Option.getD_some]

/-- The bytes put into a buffer are its first bytes. -/
theorem Buf.first_put (b : Buf) (l : List Byte) (h : l.length ≤ 16) : (b.put l).first l.length = l := by
  refine List.ext_getElem? fun i => ?_
  by_cases hi : i < l.length
  · rw [Buf.first_get? _ hi (by omega), Buf.put_get, List.getElem?_eq_getElem hi, Option.getD_some]
  · rw [List.getElem?_eq_none (by simp [Buf.first]; omega), List.getElem?_eq_none (by omega)]

/-! ### The issue (R150, R151) -/

/-- The event of a wrapper's issue. -/
def Access.issueEvent (a : Access) (b : Block) : Event := .auxIssue (format a.request a.rw).word false (a.data b)

theorem Access.data_length (a : Access) (b : Block) (h : a.isWrite = true) : (a.data b).length = a.size.toNat := by
  cases a <;> simp_all [Access.isWrite, Access.data, Access.size, lanes]

theorem Access.data_read (a : Access) (b : Block) (h : a.isWrite = false) : a.data b = [] := by
  cases a <;> simp_all [Access.isWrite, Access.data]

theorem Access.size_le (a : Access) : a.size.toNat ≤ 16 := by cases a <;> simp [Access.size]

theorem Access.addrOnly (a : Access) : (format a.request a.rw).addrOnly = false := by cases a <;> rfl

theorem Access.sentBytes (a : Access) (b : Block) : sentBytes a.rw a.request.size (b.ibuf.put (a.data b)) = a.data b := by
  cases h : a.isWrite with
  | true =>
    have len := a.data_length b h
    simp only [Machine.sentBytes, Access.rw, h, if_true]
    show Buf.first _ a.size.toNat = _
    rw [← len, Buf.first_put _ _ (len ▸ a.size_le)]
  | false => simp [Machine.sentBytes, Access.rw, h, a.data_read b h]

/-- The block after a wrapper's issue. -/
def issued (a : Access) (b : Block) : Block := (accessIssue a b).2

section
variable {a : Access} {b : Block} (h : b.aux.fsm = .idle)
include h

theorem issued_eq : issued a b =
    { auxIssue a.request a.rw (b.ibuf.put (a.data b)) b |>.2 with ibuf := b.ibuf.put (a.data b) } := by
  rw [issued, accessIssue_idle h]

theorem issued_fsm : (issued a b).aux.fsm = .wait := by rw [issued_eq h, auxIssue_idle h]; rfl
theorem issued_req : (issued a b).aux.req = format a.request a.rw := by rw [issued_eq h, auxIssue_idle h]; rfl
theorem issued_train : (issued a b).train = b.train := by rw [issued_eq h, auxIssue_idle h]; rfl
theorem issued_phy : (issued a b).phy = b.phy := by rw [issued_eq h, auxIssue_idle h]; rfl
theorem issued_store : (issued a b).store = b.store := by rw [issued_eq h, auxIssue_idle h]; rfl
theorem issued_svc : (issued a b).svc = b.svc := by rw [issued_eq h, auxIssue_idle h]; rfl
theorem issued_loc : (issued a b).loc = b.loc := by rw [issued_eq h, auxIssue_idle h]; rfl
theorem issued_env : (issued a b).env = b.env := by rw [issued_eq h, auxIssue_idle h]; rfl
theorem issued_hist : (issued a b).hist = b.hist ++ [a.issueEvent b] := by
  rw [issued_eq h, auxIssue_idle h, a.addrOnly, a.sentBytes]; rfl

end

/-! ### The answer (R129 to R133, R149) -/

/-- The result of the access's transfer for an answer. -/
def Access.result (a : Access) (x : AuxAnswer) : Xfer := xferResult (format a.request a.rw) x

/-- A payload is accepted exactly from a reply with nothing wrong whose type gives it, within the size (R130 to R132). -/
theorem acceptedPayload_iff (r : ReplyStatus) (rw : Rw) (size p : Byte) :
    acceptedPayload r rw size = some p ↔
      r.errStatus = 0 ∧ r.replyReceived = true ∧ classify r rw size = some p ∧ p ≤ size := by
  have hErr : replyError r = false ↔ r.errStatus = 0 ∧ r.replyReceived = true := by simp [replyError]
  unfold acceptedPayload
  cases he : replyError r with
  | true =>
    have := hErr.not.1 (by simp [he])
    simp only [if_true, reduceCtorEq, false_iff]
    exact fun h => this ⟨h.1, h.2.1⟩
  | false =>
    obtain ⟨h1, h2⟩ := hErr.1 he
    cases hc : classify r rw size with
    | none => simp
    | some q =>
      by_cases hq : size < q
      · simp only [Bool.false_eq_true, if_false, hq, if_true, h1, h2, reduceCtorEq, Option.some.injEq, false_iff, true_and]
        rintro ⟨rfl, h⟩
        exact absurd hq (BitVec.not_lt.2 h)
      · simp only [Bool.false_eq_true, if_false, hq, h1, h2, Option.some.injEq, true_and]
        exact ⟨fun h => ⟨h, h ▸ BitVec.not_lt.1 hq⟩, fun h => h.1⟩

theorem xferResult_accepted {q : ReqReg} {r : ReplyStatus} {d : Buf} {p : Byte} (h : acceptedPayload r q.rw q.size = some p) :
    xferResult q (.reply r d) =
      { status := .ok, reply := r.replyType, payload := p, data := if q.rw = .read then d.first p.toNat else [] } := by
  simp only [xferResult, h]

theorem xferResult_rejected {q : ReqReg} {r : ReplyStatus} {d : Buf} (h : acceptedPayload r q.rw q.size = none) :
    xferResult q (.reply r d) = { status := .protocolError, reply := r.replyType, payload := 0, data := [] } := by
  simp only [xferResult, h]

/-- A transfer ends `OK` exactly where its answer is a reply whose payload is accepted. -/
theorem xferResult_ok_iff (q : ReqReg) (x : AuxAnswer) :
    (xferResult q x).status = .ok ↔ ∃ r d p, x = .reply r d ∧ acceptedPayload r q.rw q.size = some p := by
  constructor
  · intro h
    cases x with
    | timedOut => cases h
    | reply r d =>
      cases hp : acceptedPayload r q.rw q.size with
      | none => rw [xferResult_rejected hp] at h; cases h
      | some p => exact ⟨r, d, p, rfl, hp⟩
  · rintro ⟨r, d, p, rfl, hp⟩
    rw [xferResult_accepted hp]

/-- The transfer is to be issued again exactly where the answer defers (R149). -/
theorem deferred_xferResult_iff (q : ReqReg) (x : AuxAnswer) : deferred (xferResult q x) = true ↔ Defers x := by
  simp only [deferred, Bool.and_eq_true, beq_iff_eq, Bool.or_eq_true, xferResult_ok_iff]
  constructor
  · rintro ⟨⟨r, d, p, rfl, hp⟩, ht⟩
    rw [xferResult_accepted hp] at ht
    obtain ⟨he, hr, -⟩ := (acceptedPayload_iff _ _ _ _).1 hp
    exact ⟨r, d, rfl, he, hr, ht⟩
  · rintro ⟨r, d, rfl, he, hr, ht⟩
    have hp : acceptedPayload r q.rw q.size = some 0 := by
      refine (acceptedPayload_iff _ _ _ _).2 ⟨he, hr, ?_, by simp [BitVec.le_def]⟩
      obtain ht | ht := ht <;> simp [classify, ht, ack, nack, i2cNack, deferType, i2cDefer]
    exact ⟨⟨r, d, 0, rfl, hp⟩, by rw [xferResult_accepted hp]; exact ht⟩

/-- The access succeeds exactly where the answer acknowledges all of it (R149). -/
theorem succeeded_result_iff (a : Access) (x : AuxAnswer) : succeeded a (a.result x) = true ↔ WholeAck a x := by
  have payload (r : ReplyStatus) (ht : r.replyType = 0) : classify r a.rw a.size = some a.size ↔
      if a.isWrite then r.bytesRead = 1 ∨ r.auxM = a.size else r.bytesRead = a.size + 1 := by
    have type : r.replyType = ack := ht
    cases hw : a.isWrite with
    | true =>
      by_cases h1 : r.bytesRead = 1#8 <;> simp [classify, type, Access.rw, hw, h1]
    | false =>
      simp only [classify, type, Access.rw, hw, if_true, Bool.false_eq_true, if_false, bne_self_eq_false, Option.some.injEq]
      exact ⟨fun h => by rw [← h, BitVec.sub_add_cancel], fun h => by rw [h, BitVec.add_sub_cancel]⟩
  simp only [succeeded, Bool.and_eq_true, beq_iff_eq, Access.result, xferResult_ok_iff]
  constructor
  · rintro ⟨⟨⟨r, d, p, rfl, hp⟩, ht⟩, hs⟩
    rw [xferResult_accepted hp] at ht hs
    obtain ⟨he, hr, hc, -⟩ := (acceptedPayload_iff _ _ _ _).1 hp
    obtain rfl : p = a.size := hs
    exact ⟨r, d, rfl, he, hr, ht, (payload r ht).1 hc⟩
  · rintro ⟨r, d, rfl, he, hr, ht, hs⟩
    have hp : acceptedPayload r a.rw a.size = some a.size :=
      (acceptedPayload_iff _ _ _ _).2 ⟨he, hr, (payload r ht).2 hs, BitVec.le_refl _⟩
    exact ⟨⟨⟨r, d, _, rfl, hp⟩, by rw [xferResult_accepted (q := format a.request a.rw) hp]; exact ht⟩,
      by rw [xferResult_accepted (q := format a.request a.rw) hp]⟩

/-- An access that is not deferred succeeds or fails; the engine's log entry is no step, and a whole ACK leaves none (R135). -/
theorem not_logsNonAck {a : Access} {x : AuxAnswer} (h : WholeAck a x) : logsNonAck (a.result x) = false := by
  have := (succeeded_result_iff a x).2 h
  simp only [succeeded, Bool.and_eq_true, beq_iff_eq] at this
  simp [logsNonAck, this.1.2]

/-- What the block has taken of an answer, before the wrapper's own registers (R128, R135). -/
def answered (a : Access) (x : AuxAnswer) (as : List AuxAnswer) (b : Block) : Block :=
  logXfer (a.result x) (takeAnswer x
    { issued a b with env := { (issued a b).env with aux := as }.overrule (issued a b).aux.req (issued a b).aux.wdata })

section
variable (a : Access) (x : AuxAnswer) (as : List AuxAnswer) (b : Block)

@[simp] theorem answered_envAux : (answered a x as b).env.aux = as := by simp [answered]

variable {b} (h : b.aux.fsm = .idle)
include h

theorem answered_loc : (answered a x as b).loc = b.loc := by simp [answered, issued_loc h]

theorem answered_quiet (q : Quiet b) : Quiet (answered a x as b) := by
  simpa [Quiet, answered, issued_svc h, issued_env h] using q

/-- The history of a transaction: the issue, the answer, and at most a log entry, which a whole ACK does not leave (R135). -/
theorem answered_hist : ∃ l, (answered a x as b).hist = b.hist ++ [a.issueEvent b, answerEvent x] ++ l ∧
    (∀ e ∈ l, e.isStep = false) ∧ (WholeAck a x → l = []) := by
  unfold answered logXfer
  split
  · rename_i logs
    refine ⟨[_], by simp [takeAnswer_hist, issued_hist h]; rfl, by simp [Event.isStep], fun k => ?_⟩
    rw [not_logsNonAck k] at logs
    cases logs
  · exact ⟨[], by simp [takeAnswer_hist, issued_hist h], nofun, fun _ => rfl⟩

end

/-! ### The access (R149 to R151) -/

theorem accessResult_svc (a : Access) (x : Xfer) (b : Block) : (accessResult a x b).svc = b.svc := by
  unfold accessResult; split <;> simp [store_svc]
theorem accessResult_env (a : Access) (x : Xfer) (b : Block) : (accessResult a x b).env = b.env := by
  unfold accessResult; split <;> simp [store_env]
theorem accessResult_hist (a : Access) (x : Xfer) (b : Block) : (accessResult a x b).hist = b.hist := by
  unfold accessResult; split <;> simp [store_hist]

theorem accessResult_ok (a : Access) (x : Xfer) (b : Block) : (accessResult a x b).loc.ok = succeeded a x := by
  cases hs : succeeded a x with
  | true => cases a <;> simp [accessResult, hs, Access.store]
  | false => simp [accessResult, hs]

theorem accessResult_defer (a : Access) (x : Xfer) (b : Block) : (accessResult a x b).loc.defer = deferred x := by
  cases hs : succeeded a x with
  | true => cases a <;> simp [accessResult, hs, Access.store]
  | false => simp [accessResult, hs]

/-- A quiet access with a known answer that does not defer: one transaction (R149). -/
theorem runAccess_answered {a : Access} {b : Block} {x : AuxAnswer} {as : List AuxAnswer} (idle : b.aux.fsm = .idle) (quiet : Quiet b)
    (answers : b.env.aux = x :: as) (defers : ¬ Defers x) :
    runAccess boundary a b = (.norm, accessResult a (a.result x) (answered a x as b)) := by
  have quiet' : Quiet (issued a b) := by simpa [Quiet, issued_svc idle, issued_env idle] using quiet
  have complete : accessComplete a (issued a b) = accessResult a (a.result x) (answered a x as b) := by
    rw [accessComplete, auxComplete_wait (issued_fsm idle), nextAux_cons (by rw [issued_env idle, answers]), issued_req idle]
    simp [answered, Access.result, issued_req idle]
  have once : accessOnce boundary a b = (.norm, accessResult a (a.result x) (answered a x as b)) := by
    have issue : runAct (.issue a) b = (.norm, issued a b) := Prod.ext (accessIssue_keeps idle).1 rfl
    rw [accessOnce, boundary_quiet quiet, issue]
    simp only [boundary_quiet quiet', runAct, complete]
  have last : deferred (a.result x) = false := by
    simpa [Access.result] using (deferred_xferResult_iff (format a.request a.rw) x).not.2 defers
  simp [runAccess, once, accessResult_defer, last]

/-- A whole ACK to a read hands on the bytes read (R133). -/
theorem result_data {a : Access} {r : ReplyStatus} {d : Buf} (read : a.isWrite = false) (whole : WholeAck a (.reply r d)) :
    (a.result (.reply r d)).data = d.first a.size.toNat := by
  have ok := (succeeded_result_iff a _).2 whole
  simp only [succeeded, Bool.and_eq_true, beq_iff_eq] at ok
  obtain ⟨⟨status, -⟩, payload⟩ := ok
  obtain ⟨r', d', p, eq, hp⟩ := (xferResult_ok_iff _ _).1 status
  cases eq
  rw [Access.result, xferResult_accepted hp] at payload ⊢
  obtain rfl : p = a.size := payload
  have rw : (format a.request a.rw).rw = .read := by simp [format, Access.rw, read]
  simp only [rw, if_true]

/-- The registers after a success, before the wrapper stores what it read (R150). -/
theorem accessResult_whole {a : Access} {x : AuxAnswer} (whole : WholeAck a x) (c : Block) :
    accessResult a (a.result x) c =
      a.store { c with
        ibuf := c.ibuf.put (a.result x).data, loc.ok := succeeded a (a.result x), loc.defer := deferred (a.result x) } := by
  simp only [accessResult, (succeeded_result_iff a x).2 whole, if_true]

end Sys2Proof.Machine
end

section
/-! PROOFS. Runs whose answers are known: what each part of a training step does when no service comes between. -/

namespace Sys2Proof.Machine

open Sys2Proof

/-- No service comes between; the training registers, the shadows and the store are these; the events of the history that `keep` keeps
are `h`; the AUX-channel agent's coming answers are `as`. -/
structure At (keep : Event → Bool) (t : TrainRegs) (p : PhyRegs) (st : ParamStore) (h : List Event) (as : List AuxAnswer)
    (b : Block) : Prop where
  quiet : Quiet b
  regs : Regs t p st b
  hist : b.hist.filter keep = h
  answers : b.env.aux = as

section
variable {keep : Event → Bool} {t : TrainRegs} {p : PhyRegs} {st : ParamStore} {h : List Event} {x : AuxAnswer}
  {as : List AuxAnswer} {N B R : Block → Prop}

/-- A micro-step: at a quiet boundary nothing comes before it. -/
theorem At.act {a : Act} (plain : a.plain = true) (step : ∀ b, At keep t p st h as b → N (runAct a b).2) :
    Triple boundary (At keep t p st h as) (.act a) N B R :=
  .act boundary_gentle plain fun b hb => by rw [boundary_quiet hb.quiet]; exact step b hb

theorem At.mark {m : Option MicroStep} :
    Triple boundary (At keep t p st h as) (.mark m) (At keep { t with micro := m } p st h as) B R :=
  .mark fun _ ⟨quiet, ⟨train, phy, store⟩, hist, answers⟩ => ⟨quiet, ⟨by rw [← train], phy, store⟩, hist, answers⟩

/-- An internal update of the training registers. -/
theorem At.upd {u : Update} {f : TrainRegs → TrainRegs} (plain : (Act.upd u).plain = true)
    (upd : ∀ b, runUpdate u b = { b with train := f b.train }) :
    Triple boundary (At keep t p st h as) (.act (.upd u)) (At keep (f t) p st h as) B R := by
  refine At.act plain fun b ⟨quiet, ⟨train, phy, store⟩, hist, answers⟩ => ?_
  rw [runAct, upd]
  exact ⟨quiet, ⟨by rw [← train], phy, store⟩, hist, answers⟩

theorem At.delay {l : DelayLabel} (kept : keep (.delay l) = true) :
    Triple boundary (At keep t p st h as) (.act (.delay l)) (At keep t p st (h ++ [.delay l]) as) B R :=
  At.act rfl fun _ ⟨quiet, regs, hist, answers⟩ => ⟨quiet, regs, by simp [runAct, hist, kept], answers⟩

/-- A PHY command, with the log before it (R37). -/
theorem At.after_phyAct {c : PhyAct} {cmd : HwCmd} {l : List Event} {b : Block} (hb : At keep t p st h as b)
    (kept : ∀ busy, keep (.hwOp cmd busy) = true) (command : c.command b = cmd)
    (log : (logDriveSum c b).hist.filter keep = b.hist.filter keep ++ l) :
    At keep t (cmd.shadow (Machine.phyAct c b).loc.busy p) st (h ++ l ++ [.hwOp cmd (Machine.phyAct c b).loc.busy]) as
      (Machine.phyAct c b) := by
  obtain ⟨quiet, regs, hist, answers⟩ := hb
  refine ⟨by simpa [Quiet] using quiet, ⟨by simpa using regs.1, ?_, by simpa using regs.2.2⟩, ?_, by simpa using answers⟩
  · rw [phyAct_phy, command, regs.2.1]
  · rw [phyAct_hist, command, List.filter_append, log, hist]
    simp [kept]

/-- A PHY command that does not wait for PHY-ready. -/
theorem At.phyAct {c : PhyAct} {cmd : HwCmd} {l : List Event} (waits : cmd.waits = false)
    (kept : ∀ busy, keep (.hwOp cmd busy) = true) (command : ∀ b, Regs t p st b → c.command b = cmd)
    (log : ∀ b, Regs t p st b → (logDriveSum c b).hist.filter keep = b.hist.filter keep ++ l) :
    Triple boundary (At keep t p st h as) (.act (.phy c)) (At keep t (cmd.shadow false p) st (h ++ l ++ [.hwOp cmd false]) as) B R :=
  At.act rfl fun b hb => by
    have ready : (Machine.phyAct c b).loc.busy = false := phyAct_ready (.inl (by rw [command b hb.regs, waits]))
    simpa only [runAct, ready] using hb.after_phyAct kept (command b hb.regs) (log b hb.regs)

/-- A PHY command that does not wait for PHY-ready and has no log before it. -/
theorem At.phyCmd {c : PhyAct} (cmd : HwCmd) (waits : cmd.waits = false) (kept : ∀ busy, keep (.hwOp cmd busy) = true)
    (command : ∀ b, Regs t p st b → c.command b = cmd) (noLog : ∀ b, logDriveSum c b = b) :
    Triple boundary (At keep t p st h as) (.act (.phy c)) (At keep t (cmd.shadow false p) st (h ++ [.hwOp cmd false]) as) B R := by
  have triple := At.phyAct (h := h) (as := as) (B := B) (R := R) (l := []) waits kept command fun b _ => by rw [noLog, List.append_nil]
  rwa [List.append_nil] at triple

/-- A checked access with a known answer that does not defer. The engine's log entry is not in `h`: it is not kept, or the answer is a
whole ACK, which leaves none (R135). -/
theorem At.access {a : Access} {issue : Event} {Q : Block → Prop} (defers : ¬ Defers x) (kept : ∀ e, e.isStep = true → keep e = true)
    (logs : (∀ e, e.isStep = false → keep e = false) ∨ WholeAck a x) (event : ∀ b, Regs t p st b → a.issueEvent b = issue)
    (post : ∀ b d, At keep t p st h (x :: as) b → Q b → d = accessResult a (a.result x) (answered a x as b) →
      (answered a x as b).loc = b.loc → AccessKeeps a b d → At keep d.train p st (h ++ [issue, answerEvent x]) as d → N d) :
    Triple boundary (fun b => At keep t p st h (x :: as) b ∧ Q b) (.access a) N B R := by
  intro b idle hb
  obtain ⟨⟨quiet, regs, hist, answers⟩, hq⟩ := hb
  obtain ⟨norm, idle', steady, keeps⟩ := runAccess_keeps boundary_gentle a b idle
  have run := runAccess_answered (a := a) idle quiet answers defers
  rw [run] at idle' steady keeps
  simp only [runCode, run]
  refine ⟨idle', steady, post b _ ⟨quiet, regs, hist, answers⟩ hq rfl (answered_loc a x as idle) keeps ⟨?_, ⟨rfl, ?_, ?_⟩, ?_, ?_⟩⟩
  · simpa [Quiet, accessResult_svc, accessResult_env] using answered_quiet a x as idle quiet
  · rw [keeps.phy, regs.2.1]
  · rw [keeps.store, regs.2.2]
  · obtain ⟨l, eq, log, none⟩ := answered_hist a x as idle
    have gone : l.filter keep = [] := by
      obtain logs | whole := logs
      · exact List.filter_eq_nil_iff.2 fun e he => by simp [logs e (log e he)]
      · rw [none whole, List.filter_nil]
    have answer : keep (answerEvent x) = true := kept _ (by cases x <;> rfl)
    have issued : keep issue = true := kept _ (by rw [← event b regs]; rfl)
    simp [accessResult_hist, eq, hist, event b regs, issued, answer, gone]
  · rw [accessResult_env, answered_envAux]

/-- An access that writes none of the training registers. -/
theorem At.access_keeps {a : Access} {issue : Event} (hc : a ≠ .capability) (hl : a ≠ .linkStatus) (defers : ¬ Defers x)
    (kept : ∀ e, e.isStep = true → keep e = true) (logs : (∀ e, e.isStep = false → keep e = false) ∨ WholeAck a x)
    (event : ∀ b, Regs t p st b → a.issueEvent b = issue) :
    Triple boundary (At keep t p st h (x :: as)) (.access a) (At keep t p st (h ++ [issue, answerEvent x]) as) B R :=
  (At.access (Q := fun _ => True) defers kept logs event fun b d hb _ _ _ keeps hd => by
    rwa [keeps.train_eq hc hl, hb.regs.1] at hd).pre fun _ hb => ⟨hb, trivial⟩

theorem WholeAck.not_defers {a : Access} (w : WholeAck a x) : ¬ Defers x := by
  obtain ⟨r, d, rfl, -, -, type, -⟩ := w
  rintro ⟨r', d', eq, -, -, type'⟩
  cases eq
  simp [type] at type'

/-- A checked access that is wholly acknowledged goes on (R200, R218). -/
theorem At.checked {a : Access} {t' : TrainRegs} {issue : Event} (whole : WholeAck a x) (kept : ∀ e, e.isStep = true → keep e = true)
    (event : ∀ b, Regs t p st b → a.issueEvent b = issue)
    (train : ∀ b d, At keep t p st h (x :: as) b → AccessKeeps a b d → d = accessResult a (a.result x) (answered a x as b) →
      d.train = t') :
    Triple boundary (At keep t p st h (x :: as)) (Machine.checked a) (At keep t' p st (h ++ [issue, answerEvent x]) as) B R := by
  refine .seq ((At.access (Q := fun _ => True) (N := fun d => At keep t' p st (h ++ [issue, answerEvent x]) as d ∧ d.loc.ok = true)
    whole.not_defers kept (.inr whole) event fun b d hb _ eq _ keeps hd => ⟨?_, ?_⟩).pre fun _ hb => ⟨hb, trivial⟩) <|
    .condTrue (fun _ hb => hb.2) (Triple.skip.pre fun _ => And.left)
  · rwa [train b d hb keeps eq] at hd
  · rw [eq, accessResult_ok, (succeeded_result_iff a x).2 whole]

/-- A write that is wholly acknowledged. -/
theorem At.checkedWrite {a : Access} {issue : Event} (write : a.isWrite = true) {d : Buf} (kept : ∀ e, e.isStep = true → keep e = true)
    (event : ∀ b, Regs t p st b → a.issueEvent b = issue) :
    Triple boundary (At keep t p st h (ackWrite d :: as)) (Machine.checked a)
      (At keep t p st (h ++ [issue, answerEvent (ackWrite d)]) as) B R := by
  refine At.checked ⟨_, _, rfl, rfl, rfl, rfl, by simp [write, ackStatus]⟩ kept event fun b c hb keeps _ => ?_
  rw [keeps.train_eq (by rintro rfl; cases write) (by rintro rfl; cases write), hb.regs.1]

/-- The link-status read that is wholly acknowledged (R204). -/
theorem At.checkedStatus {d : Buf} (kept : ∀ e, e.isStep = true → keep e = true) :
    Triple boundary (At keep t p st h (ackRead 6 d :: as)) (Machine.checked .linkStatus)
      (At keep { t with lstat := sixBytes d } p st (h ++ [statusReadIssue, answerEvent (ackRead 6 d)]) as) B R := by
  have whole : WholeAck .linkStatus (ackRead 6 d) := ⟨_, _, rfl, rfl, rfl, rfl, rfl⟩
  refine At.checked whole kept (fun _ _ => rfl) fun b c hb keeps eq => ?_
  have lstat : c.train.lstat = sixBytes d := by
    have data : (Access.result .linkStatus (ackRead 6 d)).data = d.first 6 := result_data rfl whole
    rw [eq, accessResult_whole whole, data]
    exact Vector.ext fun i hi => by simp [Access.store, sixBytes, Buf.put_first_get _ d hi (by omega)]
  rw [keeps.train, keeps.cap nofun, lstat, hb.regs.1]

end

/-! ### An iteration (R178, R202 to R204, R211) -/

/-- The same with the whole history. -/
abbrev Exactly := At fun _ => true

/-- The drive of a lane, as `ProgramDrive()` sends it (R178). -/
def driveOf (table : ParamStore) (st : LinkPhyStatus) (i : Lane) : Drive :=
  ⟨st.swing[i], st.preemp[i], sigLookup table st.curRate st.swing[i] st.preemp[i]⟩

/-- The events of one lane of `ProgramDrive()`. -/
def laneEvents (table : ParamStore) (st : LinkPhyStatus) (i : Lane) : List Event :=
  if i.val < st.curLanes.toNat then
    (if 3 < st.swing[i].toNat + st.preemp[i].toNat then [.log (.driveSum i st.swing[i] st.preemp[i])] else []) ++
      [.hwOp (.setVswingPreemp i (driveOf table st i)) false]
  else []

/-- The shadows after one lane of `ProgramDrive()`. -/
def driven (table : ParamStore) (st : LinkPhyStatus) (i : Lane) (p : PhyRegs) : PhyRegs :=
  if i.val < st.curLanes.toNat then { p with drive := p.drive.set i (.known (driveOf table st i)) } else p

/-- One lane writes its own drive only. -/
theorem driven_eq (table : ParamStore) (st : LinkPhyStatus) (i : Lane) (p : PhyRegs) :
    driven table st i p = { p with drive := (driven table st i p).drive } := by
  unfold driven; split <;> rfl

theorem driven_get (table : ParamStore) (st : LinkPhyStatus) (i : Lane) (p : PhyRegs) (j : Nat) (hj : j < 4) :
    (driven table st i p).drive[j] =
      if i.val = j ∧ i.val < st.curLanes.toNat then .known (driveOf table st i) else p.drive[j] := by
  by_cases active : i.val < st.curLanes.toNat <;> simp [driven, active, Vector.getElem_set]

/-- The shadows after `ProgramDrive()`. -/
def drivenAll (table : ParamStore) (st : LinkPhyStatus) (p : PhyRegs) : PhyRegs :=
  driven table st 3 (driven table st 2 (driven table st 1 (driven table st 0 p)))

theorem drivenAll_eq (table : ParamStore) (st : LinkPhyStatus) (p : PhyRegs) :
    drivenAll table st p = { p with
      drive := Vector.ofFn fun i : Lane => if i.val < st.curLanes.toNat then .known (driveOf table st i) else p.drive[i] } := by
  have drive : (drivenAll table st p).drive =
      Vector.ofFn fun i : Lane => if i.val < st.curLanes.toNat then .known (driveOf table st i) else p.drive[i] := by
    ext j hj
    have hj : j = 0 ∨ j = 1 ∨ j = 2 ∨ j = 3 := by omega
    obtain rfl | rfl | rfl | rfl := hj <;> simp [drivenAll, driven_get]
  rw [← drive, drivenAll, driven_eq, driven_eq _ _ 2, driven_eq _ _ 1, driven_eq _ _ 0]

section
variable {t : TrainRegs} {p : PhyRegs} {st : ParamStore} {h : List Event} {as : List AuxAnswer} {N B R : Block → Prop}

theorem driveLaneCode_exactly (i : Lane) :
    Triple boundary (Exactly t p st h as) (driveLaneCode i)
      (Exactly t (driven st t.status i p) st (h ++ laneEvents st t.status i) as) B R := by
  by_cases active : i.val < t.status.curLanes.toNat
  · refine .cond ?_ (.absurd fun b hb => ?_)
    · let high : List Event := if 3 < t.status.swing[i].toNat + t.status.preemp[i].toNat then
          [.log (.driveSum i t.status.swing[i] t.status.preemp[i])] else []
      have triple : Triple boundary (Exactly t p st h as) (.act (.phy (.driveLane i)))
          (Exactly t (driven st t.status i p) st (h ++ high ++ [.hwOp (.setVswingPreemp i (driveOf st t.status i)) false]) as) B R := by
        rw [driven, if_pos active]
        refine At.phyAct (cmd := .setVswingPreemp i (driveOf st t.status i)) rfl (fun _ => rfl) ?_ ?_
        · rintro b ⟨rfl, -, rfl⟩; rfl
        · rintro b ⟨rfl, -, -⟩
          by_cases sum : 3 < b.train.status.swing[i].toNat + b.train.status.preemp[i].toNat
          · have test : driveSumHigh b.train.status.swing[i] b.train.status.preemp[i] = true := decide_eq_true sum
            simp only [logDriveSum, test, if_true, high, if_pos sum, log_hist, List.filter_append]
            rfl
          · have test : driveSumHigh b.train.status.swing[i] b.train.status.preemp[i] = false := decide_eq_false sum
            simp only [logDriveSum, test, Bool.false_eq_true, if_false, high, if_neg sum, List.append_nil]
      exact (triple.pre fun _ hb => hb.1).post fun _ hb => by simpa [laneEvents, active, high] using hb
    · simpa [evalTest, laneActive, hb.1.regs.1, active] using hb.2
  · refine .cond (.absurd fun b hb => ?_) (Triple.skip.pre fun b hb => ?_)
    · simpa [evalTest, laneActive, hb.1.regs.1, active] using hb.2
    · simpa [driven, laneEvents, active] using hb.1

theorem programDriveCode_exactly :
    Triple boundary (Exactly t p st h as) programDriveCode
      (Exactly t (drivenAll st t.status p) st (h ++ driveEvents st t.status) as) B R := by
  have triple : Triple boundary (Exactly t p st h as) programDriveCode _ B R :=
    .seq (driveLaneCode_exactly 0) <| .seq (driveLaneCode_exactly 1) <| .seq (driveLaneCode_exactly 2) (driveLaneCode_exactly 3)
  have events : driveEvents st t.status = laneEvents st t.status 0 ++ (laneEvents st t.status 1 ++ (laneEvents st t.status 2 ++
      laneEvents st t.status 3)) := by
    simp [driveEvents, laneEvents, driveOf]
  rw [events]
  simpa only [List.append_assoc, drivenAll] using triple

theorem linkConfig_issueEvent (b : Block) :
    Access.linkConfig.issueEvent b = linkConfigIssue b.train.sessionParam b.train.status := rfl

theorem trainingSet_issueEvent (eq : Bool) (b : Block) :
    (Access.trainingSet eq).issueEvent b = burstIssue (patByte (burstPattern b.train eq)) b.train.status := by
  have word : (format (Access.trainingSet eq).request (Access.trainingSet eq).rw).word = 0x80010204 := by cases eq <;> decide
  rw [Access.issueEvent, word]
  rfl

/-- Steps 1 to 3 with three whole acknowledgements (R202 to R204, R211). -/
theorem iteration_exactly (eq : Bool) (l : DelayLabel) {rest : Code} {d1 d2 d3 : Buf}
    (h' : Triple boundary
      (Exactly { t with micro := some .convergenceCheck, lstat := sixBytes d3 }
        { drivenAll st t.status p with pattern := .known (burstPattern t eq) } st
        (h ++ iterationEvents st t.sessionParam t.status (burstPattern t eq) (patByte (burstPattern t eq)) l (ackWrite d1) (ackWrite d2)
          (ackRead 6 d3)) as)
      rest N B R) :
    Triple boundary (Exactly t p st h (ackWrite d1 :: ackWrite d2 :: ackRead 6 d3 :: as))
      (.seq (patternSetCode eq) (.seq (settleCode l) (.seq statusReadCode (.seq (.mark (some .convergenceCheck)) rest)))) N B R := by
  have pattern {h : List Event} {as : List AuxAnswer} {p : PhyRegs} :
      Triple boundary (Exactly { t with micro := some .patternSet } p st h as) (.act (.phy (if eq then .patternEq else .pattern .tps1)))
        (Exactly { t with micro := some .patternSet } { p with pattern := .known (burstPattern t eq) } st
          (h ++ [.hwOp (.setPattern (burstPattern t eq)) false]) as) B R := by
    refine At.phyCmd (.setPattern (burstPattern t eq)) rfl (fun _ => rfl) ?_ ?_
    · rintro b ⟨train, -, -⟩
      cases eq <;> simp [PhyAct.command, burstPattern, train]
    · cases eq <;> exact fun _ => rfl
  refine .seq (.seq At.mark <| .seq programDriveCode_exactly <| .seq pattern <| .seq
    (At.checkedWrite (issue := linkConfigIssue t.sessionParam t.status) rfl (fun _ _ => rfl) ?_)
    (At.checkedWrite (issue := burstIssue (patByte (burstPattern t eq)) t.status) rfl (fun _ _ => rfl) ?_)) <|
    .seq (.seq At.mark (At.delay rfl)) <| .seq (.seq At.mark (At.checkedStatus fun _ _ => rfl)) <| .seq At.mark (h'.pre ?_)
  · exact fun b regs => by rw [linkConfig_issueEvent, regs.1]
  · exact fun b regs => by rw [trainingSet_issueEvent, regs.1]; rfl
  · exact fun b hb => by simpa [iterationEvents] using hb

end

end Sys2Proof.Machine
end

section
/-! PROOFS. O27, O30 and O41: clock recovery and equalization with known answers. -/

namespace Sys2Proof.Machine

open Sys2Proof

/-! ### Link status (R103, R104) -/

theorem statusNibble_cr (l : Vector Byte 6) (i : Lane) : (statusNibble l i).getLsbD 0 = laneCr l i := by
  fin_cases i <;> simp [statusNibble, laneNibble, laneCr]

theorem statusNibble_eq (l : Vector Byte 6) (i : Lane) : (statusNibble l i).getLsbD 1 = laneEq l i := by
  fin_cases i <;> simp [statusNibble, laneNibble, laneEq]

theorem mem_lanes (i : Lane) : i ∈ lanes := by fin_cases i <;> simp [lanes]

/-- Clock recovery is done on every active lane (R103). -/
theorem crOk_iff (l : Vector Byte 6) (n : LaneCount) : crOk l n = true ↔ ∀ i : Lane, i.val < n.toNat → laneCr l i = true := by
  simp only [crOk, List.all_eq_true, mem_lanes, forall_true_left, statusNibble_cr, laneActive, Bool.or_eq_true, Bool.not_eq_true',
    decide_eq_false_iff_not]
  exact forall_congr' fun i => by rw [imp_iff_not_or]

/-- Clock recovery and equalization are done on every active lane (R103). -/
theorem eqOk_iff (l : Vector Byte 6) (n : LaneCount) :
    eqOk l n = true ↔ ∀ i : Lane, i.val < n.toNat → laneCr l i = true ∧ laneEq l i = true := by
  simp only [eqOk, List.all_eq_true, mem_lanes, forall_true_left, statusNibble_cr, statusNibble_eq, laneActive, Bool.or_eq_true,
    Bool.not_eq_true', decide_eq_false_iff_not, Bool.and_eq_true]
  exact forall_congr' fun i => by rw [imp_iff_not_or]

section
variable {t : TrainRegs} {p : PhyRegs} {st : ParamStore} {h : List Event} {as : List AuxAnswer} {P N B R : Block → Prop} {c d : Code}

/-- How a step that converges ends. -/
def Converged (t : TrainRegs) (p : PhyRegs) (st : ParamStore) (h : List Event) (as : List AuxAnswer) (b : Block) : Prop :=
  b.loc.ret = .ok ∧ Exactly t p st h as b

/-- The success of a step (R205, R213). -/
theorem success_exactly {ph : Phase} :
    Triple boundary (Exactly t p st h as) (block [.act (.upd (.setPhase ph)), .ret .ok]) N B
      (Converged { t with phase := ph } p st h as) :=
  .seq (At.upd (f := fun t => { t with phase := ph }) rfl fun _ => rfl) <|
    .ret fun _ hb => ⟨rfl, hb.quiet, hb.regs, hb.hist, hb.answers⟩

/-- The entry of clock recovery, where the PHY is ready (R201). -/
theorem crCode_exactly (phase : t.phase ∈ [Phase.initOk, .retryPending])
    (rest : Triple boundary
      (Exactly { t with micro := none, retry := 0, notUpdated := 0 }
        { p with
          lanes := .known t.status.curLanes, rate := .known t.status.curRate, xmitMask := .known (laneMask t.status.curLanes) }
        st (h ++ crEntryEvents t.status) as)
      (.seq (.loop Config.crRetry crIteration) fallbackCode) N B R) :
    Triple boundary (fun b => Exactly t p st h as b ∧ PhyOk b) crCode N B R := by
  refine phaseIn_triple (fun b hb => by rwa [hb.1.regs.1]) ?_
  refine .seq (M := fun b => Exactly { t with micro := none } p st h as b ∧ PhyOk b) (.mark ?_) <| .seq (M := fun b =>
    Exactly { t with micro := none } { p with lanes := .known t.status.curLanes, rate := .known t.status.curRate } st
      (h ++ [] ++ [.hwOp (.setLaneCountLinkRate t.status.curLanes t.status.curRate) false]) as b ∧ b.loc.busy = false) ?_ <|
    .seq (.condTrue (fun b hb => by simp [evalTest, hb.2]) (Triple.skip.pre fun _ => And.left)) <|
    .seq (At.phyCmd (.enableXmit (laneMask t.status.curLanes)) rfl (fun _ => rfl) (fun b regs => ?_) (fun _ => rfl)) <|
    .seq (At.upd (f := fun t => { t with retry := 0, notUpdated := 0 }) rfl fun _ => rfl) (rest.pre ?_)
  · rintro b ⟨⟨quiet, ⟨train, phy, store⟩, hist, answers⟩, ok⟩
    exact ⟨⟨quiet, ⟨by rw [← train], phy, store⟩, hist, answers⟩, ok⟩
  · refine .act boundary_gentle rfl fun b hb => ?_
    rw [boundary_quiet hb.1.quiet]
    have ready : (phyAct .linkRate b).loc.busy = false := phyAct_ready (.inr hb.2)
    have after := hb.1.after_phyAct (c := .linkRate) (cmd := .setLaneCountLinkRate t.status.curLanes t.status.curRate) (l := [])
      (fun _ => rfl) (by simp [PhyAct.command, hb.1.regs.1]) (by simp [logDriveSum])
    rw [ready] at after
    exact ⟨after, ready⟩
  · simp [PhyAct.command, regs.1]
  · exact fun b hb => by simpa [crEntryEvents, HwCmd.shadow] using hb

/-- An iteration of clock recovery whose status shows it done (R205). -/
theorem crIteration_converges {d1 d2 d3 : Buf} (done : crOk (sixBytes d3) t.status.curLanes = true) :
    Triple boundary (Exactly t p st h (ackWrite d1 :: ackWrite d2 :: ackRead 6 d3 :: as)) crIteration N B
      (Converged { t with micro := some .convergenceCheck, lstat := sixBytes d3, phase := .crOk }
        { drivenAll st t.status p with pattern := .known .tps1 } st
        (h ++ iterationEvents st t.sessionParam t.status .tps1 0x21 .crDelay (ackWrite d1) (ackWrite d2) (ackRead 6 d3)) as) :=
  iteration_exactly false .crDelay <| .seq (M := fun _ => False)
    (.condTrue (fun b hb => by simpa [evalTest, hb.regs.1] using done) success_exactly) (.absurd fun _ => id)

/-- An iteration of equalization whose status shows it done (R213). -/
theorem eqIteration_converges {d1 d2 d3 : Buf} (done : eqOk (sixBytes d3) t.status.curLanes = true) :
    Triple boundary (Exactly t p st h (ackWrite d1 :: ackWrite d2 :: ackRead 6 d3 :: as)) eqIteration N B
      (Converged { t with micro := some .convergenceCheck, lstat := sixBytes d3, phase := .eqOk }
        { drivenAll st t.status p with pattern := .known t.eqTps.pattern } st
        (h ++ iterationEvents st t.sessionParam t.status t.eqTps.pattern (patByte t.eqTps.pattern) .eqDelay (ackWrite d1) (ackWrite d2)
          (ackRead 6 d3)) as) := by
  have cr : crOk (sixBytes d3) t.status.curLanes = true :=
    (crOk_iff _ _).2 fun i hi => ((eqOk_iff _ _).1 done i hi).1
  exact iteration_exactly true .eqDelay <| .seq (.condTrue (fun b hb => by simpa [evalTest, hb.regs.1] using cr) Triple.skip) <|
    .seq (M := fun _ => False) (.condTrue (fun b hb => by simpa [evalTest, hb.regs.1] using done) success_exactly) (.absurd fun _ => id)

/-- Clock recovery done at the first status (R201 to R205). -/
theorem crCode_converges {d1 d2 d3 : Buf} (phase : t.phase ∈ [Phase.initOk, .retryPending])
    (done : crOk (sixBytes d3) t.status.curLanes = true) :
    Triple boundary (fun b => Exactly t p st h (ackWrite d1 :: ackWrite d2 :: ackRead 6 d3 :: as) b ∧ PhyOk b) crCode N B
      (Converged { t with micro := some .convergenceCheck, retry := 0, notUpdated := 0, lstat := sixBytes d3, phase := .crOk }
        { drivenAll st t.status { p with
            lanes := .known t.status.curLanes, rate := .known t.status.curRate, xmitMask := .known (laneMask t.status.curLanes) } with
          pattern := .known .tps1 }
        st (h ++ crEntryEvents t.status ++
          iterationEvents st t.sessionParam t.status .tps1 0x21 .crDelay (ackWrite d1) (ackWrite d2) (ackRead 6 d3)) as) :=
  crCode_exactly phase <| .seq (M := fun _ => False) (.loopStep (M := fun _ => False) (crIteration_converges done) (.absurd fun _ => id))
    (.absurd fun _ => id)

/-- Equalization done at the first status (R210 to R213). -/
theorem eqCode_converges {d1 d2 d3 : Buf} (phase : t.phase = .crOk) (done : eqOk (sixBytes d3) t.status.curLanes = true) :
    Triple boundary (Exactly t p st h (ackWrite d1 :: ackWrite d2 :: ackRead 6 d3 :: as)) eqCode N B
      (Converged { t with micro := some .convergenceCheck, retry := 0, notUpdated := 0, lstat := sixBytes d3, phase := .eqOk }
        { drivenAll st t.status p with pattern := .known t.eqTps.pattern }
        st (h ++ iterationEvents st t.sessionParam t.status t.eqTps.pattern (patByte t.eqTps.pattern) .eqDelay (ackWrite d1) (ackWrite d2)
          (ackRead 6 d3)) as) :=
  phaseIn_triple (fun b hb => by simp [hb.regs.1, phase]) <| .seq At.mark <|
    .seq (At.upd (f := fun t => { t with retry := 0, notUpdated := 0 }) rfl fun _ => rfl) <|
    .seq (M := fun _ => False) (.loopStep (M := fun _ => False) (eqIteration_converges done) (.absurd fun _ => id)) (.absurd fun _ => id)

end

/-- The block a command starts in, with everything known of it. -/
theorem exactly_start {s : State} (e : Event) (quiet : Quiet s.blk) :
    Exactly s.blk.train s.blk.phy s.blk.store (s.blk.hist ++ [e]) s.blk.env.aux (log e s.blk) :=
  ⟨quiet, ⟨rfl, rfl, rfl⟩, by simp, rfl⟩

/-- A command whose code converges: what the host finds at its end. -/
theorem exec_converged {i : Instr} {s : State} {P : Block → Prop} {t : TrainRegs} {p : PhyRegs} {st : ParamStore} {h : List Event}
    {as : List AuxAnswer} (triple : Triple boundary P (codeOf i) (Converged t p st h as) (fun _ => False) (Converged t p st h as))
    (idle : s.blk.aux.fsm = .idle) (start : P (log (.cmdStart (opcodeOf i)) s.blk)) :
    ∃ b, exec i s = .next { s with blk := b } ∧ b.port.resStatus = 0 ∧ b.train = { t with micro := none } ∧ b.phy = p ∧
      b.hist = h ++ [.cmdEnd .ok] := by
  obtain ⟨c, eq, ⟨ret, -, ⟨train, phy, -⟩, hist, -⟩, -, -⟩ := exec_of_triple triple idle start
  rw [List.filter_true] at hist
  refine ⟨endCommand c, eq, by rw [endCommand_resStatus, ret]; rfl, ?_, phy, by rw [endCommand_hist, ret, hist]⟩
  rw [← train]
  rfl

/-- Settles O27: the entry, then one iteration whose status shows clock recovery done. -/
theorem crConverges : Obligations.CrConverges := by
  intro s d1 d2 d3 rest st phase idle quiet phyOk answers cr
  have start := exactly_start (.cmdStart 0x04) quiet
  rw [answers] at start
  obtain ⟨b, eq, status, train, phy, hist⟩ := exec_converged (i := .trainCr) (crCode_converges phase ((crOk_iff _ _).2 cr)) idle
    ⟨start, phyOk⟩
  refine ⟨b, eq, status, train, ?_, ?_⟩
  · rw [phy, drivenAll_eq]; rfl
  · rw [hist]; simp; rfl

/-- Settles O30: one iteration whose status shows clock recovery and equalization done. -/
theorem eqConverges : Obligations.EqConverges := by
  intro s d1 d2 d3 rest st phase idle quiet answers done
  have start := exactly_start (.cmdStart 0x05) quiet
  rw [answers] at start
  obtain ⟨b, eq, status, train, phy, hist⟩ := exec_converged (i := .trainEq) (eqCode_converges phase ((eqOk_iff _ _).2 done)) idle start
  refine ⟨b, eq, status, train, ?_, ?_⟩
  · rw [phy, drivenAll_eq]; rfl
  · rw [hist]; simp; rfl

end Sys2Proof.Machine
end

section
/-! PROOFS. O41: clock recovery in the third iteration, after an unchanged and a changed request (spec/42_link_training.md R206, R207). -/

namespace Sys2Proof.Machine

open Sys2Proof

/-! ### `Adjust()` (R206) -/

/-- No request is above the largest level. -/
theorem clamp_max (v : BitVec 2) : clamp v 3#2 = v := by
  revert v
  decide

/-- A field of a field. -/
theorem extractLsb'_extractLsb' {w n a b m : Nat} (x : BitVec w) (h : b + m ≤ n) :
    (x.extractLsb' a n).extractLsb' b m = x.extractLsb' (a + b) m := by
  ext k hk
  simp only [BitVec.getElem_extractLsb', BitVec.getLsbD_extractLsb', show b + k < n by omega, decide_true, Bool.true_and, Nat.add_assoc]

theorem requestedSwing_eq (t : TrainRegs) (i : Lane) :
    requestedSwing t i = (t.lstat[4 + i.val / 2]'(by omega)).extractLsb' (4 * (i.val % 2)) 2 := by
  unfold requestedSwing
  rw [Config.maxSwing, clamp_max]
  fin_cases i <;> simp [adjSwing, laneNibble] <;> rw [extractLsb'_extractLsb' _ (by decide)]

theorem requestedPreemp_eq (t : TrainRegs) (i : Lane) :
    requestedPreemp t i = (t.lstat[4 + i.val / 2]'(by omega)).extractLsb' (4 * (i.val % 2) + 2) 2 := by
  unfold requestedPreemp
  rw [Config.maxPreemp, clamp_max]
  fin_cases i <;> simp [adjPreemp, laneNibble] <;> rw [extractLsb'_extractLsb' _ (by decide)]

/-- The sink asks for the levels of `Adjust()`'s request (R104, R206). -/
theorem laneAsks_iff (t : TrainRegs) (i : Lane) (s p : BitVec 2) :
    laneAsks t.lstat i s p ↔ s = requestedSwing t i ∧ p = requestedPreemp t i := by
  rw [requestedSwing_eq, requestedPreemp_eq]

theorem adjustChanged_iff (t : TrainRegs) :
    adjustChanged t = true ↔
      ∃ i : Lane, i.val < t.status.curLanes.toNat ∧ ¬ laneAsks t.lstat i t.status.swing[i] t.status.preemp[i] := by
  simp only [adjustChanged, List.any_eq_true, mem_lanes, true_and, Bool.and_eq_true, laneActive, decide_eq_true_eq, Bool.or_eq_true,
    bne_iff_ne, laneAsks_iff]
  exact exists_congr fun i => and_congr_right fun _ => by rw [not_and_or, ne_comm, ne_comm (b := t.status.preemp[i])]

/-- A request for the levels sent changes none, and is counted. -/
theorem adjust_unchanged {t : TrainRegs}
    (h : ∀ i : Lane, i.val < t.status.curLanes.toNat → laneAsks t.lstat i t.status.swing[i] t.status.preemp[i]) :
    adjust t = { t with notUpdated := t.notUpdated + 1 } := by
  have same : adjustChanged t = false := by
    rw [← Bool.not_eq_true, adjustChanged_iff]
    rintro ⟨i, hi, k⟩
    exact k (h i hi)
  have asked (i : Lane) (hi : i.val < t.status.curLanes.toNat) := (laneAsks_iff _ _ _ _).1 (h i hi)
  have swing : (adjust t).status.swing = t.status.swing := by
    refine Vector.ext fun j hj => ?_
    by_cases active : j < t.status.curLanes.toNat
    · simpa [adjust, laneActive, active] using (asked ⟨j, hj⟩ active).1.symm
    · simp [adjust, laneActive, active]
  have preemp : (adjust t).status.preemp = t.status.preemp := by
    refine Vector.ext fun j hj => ?_
    by_cases active : j < t.status.curLanes.toNat
    · simpa [adjust, laneActive, active] using (asked ⟨j, hj⟩ active).2.symm
    · simp [adjust, laneActive, active]
  have fields : adjust t = { t with
      status.swing := (adjust t).status.swing, status.preemp := (adjust t).status.preemp, notUpdated := (adjust t).notUpdated } := rfl
  rw [fields, swing, preemp]
  simp [adjust, same]

/-! ### An iteration that goes on (R206, R207) -/

/-- The training registers after an iteration that does not converge: the status read, `Adjust()`, the count. -/
def afterIteration (t : TrainRegs) (d : Buf) : TrainRegs :=
  { adjust { t with micro := some .adjustOrFallback, lstat := sixBytes d } with retry := t.retry + 1 }

section
variable {t : TrainRegs} {d : Buf}

/-- The rate, the lane count and all but the levels stay. -/
theorem afterIteration_status : (afterIteration t d).status = { t.status with
    swing := (afterIteration t d).status.swing, preemp := (afterIteration t d).status.preemp } := rfl

/-- A request for the levels sent leaves the status, and is counted. -/
theorem afterIteration_unchanged
    (h : ∀ i : Lane, i.val < t.status.curLanes.toNat → laneAsks (sixBytes d) i t.status.swing[i] t.status.preemp[i]) :
    (afterIteration t d).status = t.status ∧ (afterIteration t d).notUpdated = t.notUpdated + 1 := by
  rw [afterIteration, adjust_unchanged h]
  exact ⟨rfl, rfl⟩

/-- A request for other levels starts the count of unchanged ones again. -/
theorem afterIteration_changed
    (h : ∃ i : Lane, i.val < t.status.curLanes.toNat ∧ ¬ laneAsks (sixBytes d) i t.status.swing[i] t.status.preemp[i]) :
    (afterIteration t d).notUpdated = 0 := by
  have changed := (adjustChanged_iff { t with micro := some .adjustOrFallback, lstat := sixBytes d }).2 h
  simp [afterIteration, adjust, changed]

/-- The active lanes take the request. -/
theorem afterIteration_active {i : Lane} (h : i.val < t.status.curLanes.toNat) :
    laneAsks (sixBytes d) i (afterIteration t d).status.swing[i] (afterIteration t d).status.preemp[i] := by
  refine (laneAsks_iff { t with micro := some .adjustOrFallback, lstat := sixBytes d } i _ _).2 ?_
  simp [afterIteration, adjust, laneActive, h]

/-- The other lanes keep their levels. -/
theorem afterIteration_inactive {i : Lane} (h : ¬ i.val < t.status.curLanes.toNat) :
    (afterIteration t d).status.swing[i] = t.status.swing[i] ∧ (afterIteration t d).status.preemp[i] = t.status.preemp[i] := by
  simp [afterIteration, adjust, laneActive, h]

end

section
variable {t : TrainRegs} {p : PhyRegs} {st : ParamStore} {h : List Event} {as : List AuxAnswer} {N B R : Block → Prop}

/-- An iteration of clock recovery that does not converge and does not reach the bound. -/
theorem crIteration_goesOn {d1 d2 d3 : Buf} (notDone : crOk (sixBytes d3) t.status.curLanes = false)
    (below : boundReached (afterIteration t d3) Config.crRetry = false) :
    Triple boundary (Exactly t p st h (ackWrite d1 :: ackWrite d2 :: ackRead 6 d3 :: as)) crIteration
      (Exactly (afterIteration t d3) { drivenAll st t.status p with pattern := .known .tps1 } st
        (h ++ iterationEvents st t.sessionParam t.status .tps1 0x21 .crDelay (ackWrite d1) (ackWrite d2) (ackRead 6 d3)) as) B R :=
  iteration_exactly false .crDelay <| .seq (.condFalse (fun b hb => by simpa [evalTest, hb.regs.1] using notDone) Triple.skip) <|
    .seq At.mark <| .seq (At.upd (f := adjust) rfl fun _ => rfl) <|
    .seq (At.upd (f := fun t => { t with retry := t.retry + 1 }) rfl fun _ => rfl) <|
    .condFalse (fun b hb => by rw [evalTest, hb.regs.1]; exact below) Triple.skip

/-- Clock recovery in the third iteration. -/
theorem crCode_third {w : Fin 6 → Buf} {r1 r2 r3 : Buf} (phase : t.phase ∈ [Phase.initOk, .retryPending])
    {t1 t2 : TrainRegs} (h1 : t1 = afterIteration { t with micro := none, retry := 0, notUpdated := 0 } r1)
    (h2 : t2 = afterIteration t1 r2) (notDone1 : crOk (sixBytes r1) t.status.curLanes = false)
    (notDone2 : crOk (sixBytes r2) t1.status.curLanes = false) (done : crOk (sixBytes r3) t2.status.curLanes = true)
    (below1 : boundReached t1 Config.crRetry = false) (below2 : boundReached t2 Config.crRetry = false) :
    ∃ p', Triple boundary (fun b => Exactly t p st h
        ([ackWrite (w 0), ackWrite (w 1), ackRead 6 r1, ackWrite (w 2), ackWrite (w 3), ackRead 6 r2, ackWrite (w 4), ackWrite (w 5),
          ackRead 6 r3] ++ as) b ∧ PhyOk b) crCode N B
      (Converged { t2 with micro := some .convergenceCheck, lstat := sixBytes r3, phase := .crOk } p' st
        (h ++ crEntryEvents t.status ++
          iterationEvents st t.sessionParam t.status .tps1 0x21 .crDelay (ackWrite (w 0)) (ackWrite (w 1)) (ackRead 6 r1) ++
          iterationEvents st t1.sessionParam t1.status .tps1 0x21 .crDelay (ackWrite (w 2)) (ackWrite (w 3)) (ackRead 6 r2) ++
          iterationEvents st t2.sessionParam t2.status .tps1 0x21 .crDelay (ackWrite (w 4)) (ackWrite (w 5)) (ackRead 6 r3)) as) := by
  subst h1 h2
  exact ⟨_, crCode_exactly phase <| .seq (M := fun _ => False) (.loopStep (crIteration_goesOn notDone1 below1) <|
    .loopStep (crIteration_goesOn notDone2 below2) <| .loopStep (M := fun _ => False) (crIteration_converges done)
    (.absurd fun _ => id)) (.absurd fun _ => id)⟩

end

/-- Settles O41: two iterations that go on, the first with an unchanged request, and one that converges. -/
theorem crAdjusts : Obligations.CrAdjusts := by
  intro s w r1 r2 r3 rest st p phase idle quiet phyOk answers lost1 lost2 done same changed
  have lost {r : Buf} (h : ∃ i : Lane, i.val < st.curLanes.toNat ∧ laneCr (sixBytes r) i = false) :
      crOk (sixBytes r) st.curLanes = false := by
    rw [← Bool.not_eq_true, crOk_iff]
    obtain ⟨i, hi, no⟩ := h
    exact fun all => by simp [all i hi] at no
  let t0 : TrainRegs := { s.blk.train with micro := none, retry := 0, notUpdated := 0 }
  let t1 := afterIteration t0 r1
  let t2 := afterIteration t1 r2
  obtain ⟨status1, updated1⟩ : t1.status = st ∧ t1.notUpdated = 1 := afterIteration_unchanged same
  have retry1 : t1.retry = 1 := rfl
  have status2 : t2.status = { st with swing := t2.status.swing, preemp := t2.status.preemp } :=
    status1 ▸ afterIteration_status
  have retry2 : t2.retry = 2 := rfl
  have updated2 : t2.notUpdated = 0 := afterIteration_changed (by rwa [status1])
  obtain ⟨p', triple⟩ := crCode_third (p := s.blk.phy) (st := s.blk.store) (h := s.blk.hist ++ [.cmdStart 0x04]) (as := rest) (w := w)
    (r1 := r1) (r2 := r2) (r3 := r3) (N := fun _ => False) (B := fun _ => False) phase (t1 := t1) (t2 := t2) rfl rfl (lost lost1)
    (by rw [status1]; exact lost lost2) (by rw [status2]; exact (crOk_iff _ _).2 done)
    (by rw [boundReached, retry1, updated1]; decide) (by rw [boundReached, retry2, updated2]; decide)
  have start := exactly_start (.cmdStart 0x04) quiet
  rw [answers] at start
  obtain ⟨b, eq, status, train, phy, hist⟩ := exec_converged (i := .trainCr) (triple.post fun _ => False.elim) idle ⟨start, phyOk⟩
  have bstatus : b.train.status = t2.status := by rw [train]
  refine ⟨b, eq, status, by rw [train], by rw [train]; exact retry2, by rw [train]; exact updated2, ?_, ?_, ?_, ?_⟩ <;>
    rw [bstatus]
  · exact fun i hi => afterIteration_active (by rwa [status1])
  · exact fun i hi => status1 ▸ afterIteration_inactive (by rwa [status1])
  · exact status2
  · have param1 : t1.sessionParam = p := rfl
    have param2 : t2.sessionParam = p := rfl
    rw [hist, status1, param1, param2]
    simp [st, p]

end Sys2Proof.Machine
end

section
/-! PROOFS. O34 and O35: the completion with known answers (spec/42_link_training.md R219 to R225). -/

namespace Sys2Proof.Machine

open Sys2Proof

/-- The same with the history but for its log entries. -/
abbrev Steps := At Event.isStep

/-- The events of a command whose code raised no fault, log entries apart. -/
theorem Steady.steps_endCommand {opc : Byte} {b c : Block} {e : List Event} (steady : Steady (log (.cmdStart opc) b) c)
    (steps : c.hist.filter Event.isStep = (log (.cmdStart opc) b).hist.filter Event.isStep ++ e) :
    ∃ d, c.hist = (log (.cmdStart opc) b).hist ++ d ∧ d.filter Event.isStep = e ∧
      (endCommand c).hist = b.hist ++ (.cmdStart opc :: d ++ [.cmdEnd c.loc.ret]) ∧
      (Event.cmdStart opc :: d ++ [Event.cmdEnd c.loc.ret]).filter Event.isStep = .cmdStart opc :: e ++ [.cmdEnd c.loc.ret] := by
  obtain ⟨d, hd⟩ := steady.hist
  have kept : d.filter Event.isStep = e := by
    rw [← hd, List.filter_append] at steps
    exact List.append_cancel_left steps
  refine ⟨d, hd.symm, kept, by simp [← hd], ?_⟩
  rw [List.cons_append, List.filter_cons_of_pos rfl, List.filter_append, kept]
  rfl

section
variable {t : TrainRegs} {p : PhyRegs} {st : ParamStore} {h : List Event} {x w : AuxAnswer} {as : List AuxAnswer}
  {N B R : Block → Prop}

/-- The teardown, answered without DEFER (R220). -/
theorem teardownCode_steps (defers : ¬ Defers w) :
    Triple boundary (Steps t p st h (w :: as)) teardownCode
      (Steps { t with micro := none } { p with pattern := .known .none, video := .known false } st (h ++ teardownEvents w) as) B R := by
  have triple : Triple boundary (Steps t p st h (w :: as)) teardownCode _ B R :=
    .seq At.mark <| .seq (At.phyCmd (.setPattern .none) rfl (fun _ => rfl) (fun _ _ => rfl) (fun _ => rfl)) <|
    .seq (At.access_keeps (issue := .auxIssue 0x80010200 false [0x00]) nofun nofun defers (fun _ => id) (.inl fun _ => id)
      fun _ _ => rfl) <|
    At.phyCmd (.videoEnable false) rfl (fun _ => rfl) (fun _ _ => rfl) (fun _ => rfl)
  exact triple.post fun b hb => by simpa [teardownEvents, HwCmd.shadow] using hb

/-- The events of the failure branch, for the PHY's answers to the power-downs (R221). -/
def failEvents (busy : Lane → Bool) : List Event :=
  .hwOp (.enableXmit 0x0) false :: ([0, 1, 2, 3] : List Lane).map fun i => .hwOp (.setPerLanePowerMode i) (busy i)

/-- How a completion that ended `Fatal` is left, as far as its events go. -/
def FailSteps (h : List Event) (as : List AuxAnswer) (b : Block) : Prop :=
  ∃ busy, b.loc.ret = .fatal ∧ b.hist.filter Event.isStep = h ++ failEvents busy ∧ b.env.aux = as

/-- A lane is powered down, whatever the PHY answers. -/
theorem powerDown_steps (i : Lane) :
    Triple boundary (Steps t p st h as) (.act (.phy (.powerDown i)))
      (fun b => ∃ busy, True ∧ Steps t { p with power := p.power.set i .powerDown } st
        (h ++ [.hwOp (.setPerLanePowerMode i) busy]) as b) B R := by
  refine At.act rfl fun b hb => ⟨(phyAct (.powerDown i) b).loc.busy, trivial, ?_⟩
  have after := hb.after_phyAct (c := .powerDown i) (cmd := .setPerLanePowerMode i) (l := []) (fun _ => rfl) rfl (by simp [logDriveSum])
  simpa [runAct, HwCmd.shadow] using after

/-- The failure branch (R221). -/
theorem failBranchCode_steps : Triple boundary (Steps t p st h as) failBranchCode N B (FailSteps h as) := by
  have xmit : Triple boundary (Steps t p st h as) (.act (.phy .xmitOff)) _ B (FailSteps h as) :=
    At.phyCmd (.enableXmit 0x0) rfl (fun _ => rfl) (fun _ _ => rfl) (fun _ => rfl)
  refine .seq xmit <| .seq (M := fun b => ∃ busy, True ∧ ∃ p', True ∧ Steps t p' st (h ++ failEvents busy) as b)
    (.seq (powerDown_steps 0) <| .exists fun b0 _ => .seq (powerDown_steps 1) <| .exists fun b1 _ => .seq (powerDown_steps 2) <|
      .exists fun b2 _ => (powerDown_steps 3).post ?_) <|
    .exists fun busy _ => .exists fun p' _ =>
    .seq (At.upd (f := fun t => { t with resultValid := false, phase := .failed }) rfl fun _ => rfl) <|
      .ret fun b hb => ⟨busy, rfl, hb.hist, hb.answers⟩
  rintro b ⟨b3, -, hb⟩
  exact ⟨![b0, b1, b2, b3], trivial, _, trivial, by simpa [failEvents] using hb⟩

/-- The fatal end with an answer to the teardown's write that does not defer (R219 to R221). -/
theorem completedFail_steps (defers : ¬ Defers w) :
    Triple boundary (Steps t p st h (w :: as)) completedFail N B (FailSteps (h ++ teardownEvents w) as) :=
  .seq (teardownCode_steps defers) failBranchCode_steps

end

/-- The block a command starts in, its log entries apart. -/
theorem steps_start {s : State} (opc : Byte) (quiet : Quiet s.blk) :
    Steps s.blk.train s.blk.phy s.blk.store ((log (.cmdStart opc) s.blk).hist.filter Event.isStep) s.blk.env.aux
      (log (.cmdStart opc) s.blk) :=
  ⟨quiet, ⟨rfl, rfl, rfl⟩, rfl, rfl⟩

/-- Settles O34: the fatal end whatever the agents do, the events of a known teardown, and the fatal end of a session. -/
theorem doneFail : Obligations.DoneFail := by
  refine ⟨trainDone_fail, ?_, fun s b => trainStart_fatal⟩
  intro s w rest idle quiet answers defers
  have start := steps_start 0x06 quiet
  rw [answers] at start
  obtain ⟨c, eq, ⟨busy, ret, steps, aux⟩, -, steady⟩ := exec_of_triple (i := .trainDone false) (completedFail_steps defers) idle start
  obtain ⟨d, -, -, hist, events⟩ := steady.steps_endCommand (opc := 0x06) (steps.trans (List.append_assoc _ _ _))
  rw [ret] at hist events
  exact ⟨endCommand c, _, busy, eq, aux, hist, events.trans (by simp [failEvents])⟩

/-! ### FEC (R222, R223) -/

/-- The access stored the sink's bit exactly where the answer shows it; before, no bit was seen. -/
theorem fecStatus_seen {x : AuxAnswer} {c : Block} (none : c.loc.fecSeen = false) :
    (accessResult .fecStatus (Access.result .fecStatus x) c).loc.fecSeen = true ↔ FecSeen x := by
  by_cases whole : WholeAck .fecStatus x
  · rw [accessResult_whole whole]
    obtain ⟨r, d, rfl, -⟩ := id whole
    have byte : (c.ibuf.put (d.first 1))[0] = d[0] := Buf.put_first_get _ d (by decide) (by decide)
    rw [result_data rfl whole]
    show (c.ibuf.put (d.first 1))[0].getLsbD 0 = true ↔ _
    rw [byte]
    exact ⟨fun seen => ⟨whole, r, d, rfl, seen⟩, fun ⟨_, _, _, eq, seen⟩ => by cases eq; exact seen⟩
  · have failed : succeeded .fecStatus (Access.result .fecStatus x) = false := by
      simpa using (succeeded_result_iff .fecStatus x).not.2 whole
    simp [accessResult, failed, none, FecSeen, whole]

section
variable {t : TrainRegs} {p : PhyRegs} {st : ParamStore} {h : List Event} {x w : AuxAnswer} {as : List AuxAnswer}
  {N B R : Block → Prop}

/-- Between the attempts at enabling FEC: the bit was seen or not. -/
def Attempted (seen : Bool) (t : TrainRegs) (p : PhyRegs) (st : ParamStore) (h : List Event) (as : List AuxAnswer) (b : Block) : Prop :=
  Steps t p st h as b ∧ b.loc.fecSeen = seen

/-- A micro-step that leaves the sink's bit. -/
theorem fecSeen_act {a : Act} {seen : Bool} (plain : a.plain = true) (keeps : ∀ b, (runAct a b).2.loc.fecSeen = b.loc.fecSeen) :
    Triple boundary (fun b => b.loc.fecSeen = seen) (.act a) (fun b => b.loc.fecSeen = seen) (fun _ => False) (fun _ => False) :=
  .act boundary_gentle plain fun b hb => by rw [keeps, boundary_loc, hb]

/-- One attempt with an answer to its read that does not defer (R222): the loop goes on, or is left where the bit was seen. -/
theorem fecAttempt_steps {seen : Bool} (defers : ¬ Defers x) (bit : FecSeen x ↔ seen = true) :
    Triple boundary (Attempted false t p st h (x :: as)) fecAttempt
      (fun b => seen = false ∧ Attempted seen t { p with fec := .known true } st (h ++ fecAttemptEvents x) as b)
      (fun b => seen = true ∧ Attempted seen t { p with fec := .known true } st (h ++ fecAttemptEvents x) as b) R := by
  have enable {B : Block → Prop} : Triple boundary (Attempted false t p st h (x :: as)) (.act (.phy (.fec true)))
      (Attempted false t { p with fec := .known true } st (h ++ [.hwOp (.enableFec true) false]) (x :: as)) B R :=
    (At.phyCmd (.enableFec true) rfl (fun _ => rfl) (fun _ _ => rfl) (fun _ => rfl)).and
      (fecSeen_act rfl fun b => by rw [runAct, phyAct_loc])
  have wait {h : List Event} {p : PhyRegs} {B : Block → Prop} : Triple boundary (Attempted false t p st h (x :: as))
      (.act (.delay .fecWait)) (Attempted false t p st (h ++ [.delay .fecWait]) (x :: as)) B R :=
    (At.delay rfl).and (fecSeen_act rfl fun b => rfl)
  have read {h : List Event} {p : PhyRegs} {B : Block → Prop} : Triple boundary (Attempted false t p st h (x :: as)) (.access .fecStatus)
      (Attempted seen t p st (h ++ [.auxIssue 0x90028000 false [], answerEvent x]) as) B R :=
    At.access defers (fun _ => id) (.inl fun _ => id) (fun _ _ => rfl) fun b d hb none eq loc keeps hd => by
      have iff := fecStatus_seen (x := x) (c := answered .fecStatus x as b) (by rw [loc, none])
      rw [← eq, bit] at iff
      rw [keeps.train_eq nofun nofun, hb.regs.1] at hd
      exact ⟨hd, Bool.eq_iff_iff.2 iff⟩
  refine .seq enable <| .seq wait <| .seq read <| .cond (Triple.brk.pre ?_) (Triple.skip.pre ?_)
  · rintro b ⟨⟨steps, now⟩, test⟩
    exact ⟨now.symm.trans test, by simpa [fecAttemptEvents] using steps, now⟩
  · rintro b ⟨⟨steps, now⟩, test⟩
    exact ⟨now.symm.trans test, by simpa [fecAttemptEvents] using steps, now⟩

/-- Attempts without the bit, then one with it (R222). -/
theorem fecLoop_hit {hit : AuxAnswer} (seen : FecSeen hit) {misses : List AuxAnswer}
    (missed : ∀ x ∈ misses, ¬ FecSeen x ∧ ¬ Defers x) :
    ∀ {n : Nat} {p : PhyRegs} {h : List Event}, misses.length < n →
      Triple boundary (Attempted false t p st h (misses ++ hit :: as)) (.loop n fecAttempt)
        (Attempted true t { p with fec := .known true } st (h ++ (misses ++ [hit]).flatMap fecAttemptEvents) as) B R := by
  induction misses with
  | nil =>
    intro n p h hn
    obtain ⟨n, rfl⟩ : ∃ m, n = m + 1 := ⟨n - 1, by simp at hn; omega⟩
    have last := fecAttempt_steps (t := t) (p := p) (st := st) (h := h) (as := as) (R := R) (seen := true)
      seen.1.not_defers (by simp [seen])
    refine .loopStep (M := fun _ => False) (last.weaken (fun _ => id) (fun _ h => by simpa using h.1) ?_ (fun _ => id))
      (.absurd fun _ => id)
    exact fun b hb => by simpa using hb.2
  | cons x xs ih =>
    intro n p h hn
    obtain ⟨n, rfl⟩ : ∃ m, n = m + 1 := ⟨n - 1, by simp at hn; omega⟩
    obtain ⟨hx, hxs⟩ := List.forall_mem_cons.1 missed
    have first := fecAttempt_steps (t := t) (p := p) (st := st) (h := h) (as := xs ++ hit :: as) (R := R) (seen := false) hx.2
      (by simp [hx.1])
    have rest := ih hxs (n := n) (p := { p with fec := .known true }) (h := h ++ fecAttemptEvents x) (by simpa using hn)
    refine .loopStep (first.weaken (fun _ => id) (fun _ => And.right) (fun _ h => by simpa using h.1) (fun _ => id))
      (rest.post ?_)
    exact fun b hb => by simpa using hb

/-- Attempts without the bit, as many as the loop makes (R222). -/
theorem fecLoop_miss {misses : List AuxAnswer} (missed : ∀ x ∈ misses, ¬ FecSeen x ∧ ¬ Defers x) :
    ∀ {p : PhyRegs} {h : List Event},
      Triple boundary (Attempted false t p st h (misses ++ as)) (.loop misses.length fecAttempt)
        (fun b => ∃ f, True ∧ Attempted false t { p with fec := f } st (h ++ misses.flatMap fecAttemptEvents) as b) B R := by
  induction misses with
  | nil =>
    intro p h
    exact Triple.loopZero.post fun b hb => ⟨p.fec, trivial, by simpa using hb⟩
  | cons x xs ih =>
    intro p h
    obtain ⟨hx, hxs⟩ := List.forall_mem_cons.1 missed
    have first := fecAttempt_steps (t := t) (p := p) (st := st) (h := h) (as := xs ++ as) (R := R) (seen := false) hx.2
      (by simp [hx.1])
    have rest := ih hxs (p := { p with fec := .known true }) (h := h ++ fecAttemptEvents x)
    refine .loopStep (first.weaken (fun _ => id) (fun _ => And.right) (fun _ h => by simpa using h.1) (fun _ => id))
      (rest.post ?_)
    exact fun b ⟨f, hf, hb⟩ => ⟨f, hf, by simpa using hb⟩

theorem fecBegin_steps : Triple boundary (Steps t p st h as) (.act (.upd .fecBegin)) (Attempted false t p st h as) B R :=
  At.act rfl fun _ ⟨quiet, regs, hist, answers⟩ => ⟨⟨quiet, regs, hist, answers⟩, rfl⟩

/-- Between the FEC branch and the end: the last event stays. -/
def Ended (l : Option Event) (t : TrainRegs) (p : PhyRegs) (st : ParamStore) (h : List Event) (as : List AuxAnswer) (b : Block) : Prop :=
  Steps t p st h as b ∧ b.hist.getLast? = l

/-- The FEC branch where no FEC is asked for (R222). -/
theorem fecCode_notAsked (asked : t.sessionParam.fecEn = false) :
    Triple boundary (Steps t p st h as) fecCode
      (fun b => ∃ l, True ∧ Ended l { t with status.fecActive := false } p st (h ++ []) as b) B R :=
  .condFalse (fun b hb => by rw [evalTest, hb.regs.1, asked]) <|
    (At.upd (f := fun t => { t with status.fecActive := false }) rfl fun _ => rfl).post fun b hb =>
      ⟨_, trivial, by simpa using hb, rfl⟩

/-- The FEC branch where an attempt sees the sink's bit (R222). -/
theorem fecCode_hit {hit : AuxAnswer} (asked : t.sessionParam.fecEn = true) (seen : FecSeen hit) {misses : List AuxAnswer}
    (missed : ∀ x ∈ misses, ¬ FecSeen x ∧ ¬ Defers x) (few : misses.length < Config.fecRetry) :
    Triple boundary (Steps t p st h (misses ++ hit :: as)) fecCode
      (fun b => ∃ l, True ∧ Ended l { t with status.fecActive := true } { p with fec := .known true } st
        (h ++ (misses ++ [hit]).flatMap fecAttemptEvents) as b) B R :=
  .condTrue (fun b hb => by rw [evalTest, hb.regs.1, asked]) <| .seq fecBegin_steps <| .seq (fecLoop_hit seen missed few) <|
    .condTrue (fun _ hb => hb.2) <|
    ((At.upd (f := fun t => { t with status.fecActive := true }) rfl fun _ => rfl).pre fun _ => And.left).post fun b hb =>
      ⟨_, trivial, hb, rfl⟩

/-- The FEC branch where no attempt sees it: FEC is switched off and given up (R223). -/
theorem fecCode_miss (asked : t.sessionParam.fecEn = true) {misses : List AuxAnswer}
    (missed : ∀ x ∈ misses, ¬ FecSeen x ∧ ¬ Defers x) (all : misses.length = Config.fecRetry) :
    Triple boundary (Steps t p st h (misses ++ as)) fecCode
      (fun b => ∃ l, l = some (.log (.fecDisabled 3)) ∧ Ended l { t with status.fecActive := false } { p with fec := .known false } st
        (h ++ (misses.flatMap fecAttemptEvents ++ [.hwOp (.enableFec false) false])) as b) B R := by
  have loop := fecLoop_miss (t := t) (st := st) (as := as) (B := B) (R := R) missed (p := p) (h := h)
  rw [all] at loop
  refine .condTrue (fun b hb => by rw [evalTest, hb.regs.1, asked]) <| .seq fecBegin_steps <| .seq loop <| .exists fun f _ =>
    .condFalse (fun _ hb => hb.2) <| .seq
      ((At.phyCmd (.enableFec false) rfl (fun _ => rfl) (fun _ _ => rfl) (fun _ => rfl)).pre fun _ => And.left)
      (At.act rfl fun b ⟨quiet, ⟨train, phy, store⟩, hist, answers⟩ => ⟨_, rfl, ⟨quiet, ⟨?_, phy, store⟩, ?_, answers⟩, ?_⟩)
  · rw [← train]; rfl
  · rw [← List.append_assoc, ← hist]
    simp [runAct, runUpdate, Event.isStep]
  · simp [runAct, runUpdate, Config.fecRetry]

/-- How a completion that ended `OK` is left, as far as its events, FEC and the answers go. -/
structure OkSteps (on : Bool) (fec : Shadow Bool) (h : List Event) (as : List AuxAnswer) (l : Option Event) (b : Block) : Prop where
  ret : b.loc.ret = .ok
  active : b.train.status.fecActive = on
  phy : b.phy.fec = fec
  steps : b.hist.filter Event.isStep = h
  answers : b.env.aux = as
  last : b.hist.getLast? = l

/-- The end of a completion (R224, R225). -/
theorem finish_steps {l : Option Event} :
    Triple boundary (Ended l t p st h as) (.seq (.act (.upd .negotiate)) (.seq (.act (.upd .recordResult)) (.ret .ok))) N B
      (OkSteps t.status.fecActive p.fec h as l) := by
  have upd {u : Update} {t : TrainRegs} {f : TrainRegs → TrainRegs} (plain : (Act.upd u).plain = true)
      (upd : ∀ b, runUpdate u b = { b with train := f b.train }) :
      Triple boundary (Ended l t p st h as) (.act (.upd u)) (Ended l (f t) p st h as) B (OkSteps t.status.fecActive p.fec h as l) := by
    refine .act boundary_gentle plain fun b ⟨⟨quiet, ⟨train, phy, store⟩, hist, answers⟩, last⟩ => ?_
    rw [boundary_quiet quiet, runAct, upd]
    exact ⟨⟨quiet, ⟨by rw [← train], phy, store⟩, hist, answers⟩, last⟩
  exact .seq (upd (f := fun t => { t with status := negotiate t.status }) rfl fun _ => rfl) <|
    .seq (upd (f := fun t => { t with result := t.status, resultValid := true, phase := .done }) rfl fun _ => rfl) <|
    .ret fun b ⟨⟨_, ⟨train, phy, _⟩, hist, answers⟩, last⟩ => ⟨rfl, by rw [train]; rfl, by rw [phy], hist, answers, last⟩

/-- The completion after equalization, from what its FEC branch does (R219 to R225). -/
theorem completedOk_steps {t' : TrainRegs} {p' : PhyRegs} {e : List Event} {as' : List AuxAnswer} {L : Option Event → Prop}
    (phase : t.phase = .eqOk) (defers : ¬ Defers w)
    (fec : ∀ {h : List Event} {B R : Block → Prop}, Triple boundary
      (Steps { t with micro := none } { p with pattern := .known .none, video := .known false } st h as) fecCode
      (fun b => ∃ l, L l ∧ Ended l t' p' st (h ++ e) as' b) B R) :
    Triple boundary (Steps t p st h (w :: as)) completedOk N B
      (fun b => ∃ l, L l ∧ OkSteps t'.status.fecActive p'.fec (h ++ (teardownEvents w ++ e)) as' l b) :=
  phaseIn_triple (fun b hb => by simp [hb.regs.1, phase]) <| .seq (teardownCode_steps defers) <| .seq fec <| .exists fun l hl =>
    finish_steps.weaken (fun _ => id) (fun _ => id) (fun _ => id) (fun _ hb => ⟨l, hl, List.append_assoc h _ _ ▸ hb⟩)

end

/-- The block after `TRAIN.DONE 1`, from what the code's FEC branch does (R219 to R225). -/
theorem exec_doneOk {s : State} {w : AuxAnswer} {e : List Event} {as as' : List AuxAnswer} {t' : TrainRegs} {p' : PhyRegs}
    {L : Option Event → Prop} (phase : s.blk.train.phase = .eqOk) (idle : s.blk.aux.fsm = .idle) (quiet : Quiet s.blk)
    (defers : ¬ Defers w) (answers : s.blk.env.aux = w :: as)
    (fec : ∀ {h : List Event} {B R : Block → Prop}, Triple boundary
      (Steps { s.blk.train with micro := none } { s.blk.phy with pattern := .known .none, video := .known false } s.blk.store h as)
      fecCode (fun b => ∃ l, L l ∧ Ended l t' p' s.blk.store (h ++ e) as' b) B R) :
    ∃ b d, exec (.trainDone true) s = .next { s with blk := b } ∧ b.train.status.fecActive = t'.status.fecActive ∧
      b.phy.fec = p'.fec ∧ b.env.aux = as' ∧ b.hist = s.blk.hist ++ d ∧ (∃ l, L l ∧ (e ≠ [] → ∀ x, l = some x → x ∈ d)) ∧
      d.filter Event.isStep = .cmdStart 0x06 :: (teardownEvents w ++ e) ++ [.cmdEnd .ok] := by
  have start := steps_start 0x06 quiet
  rw [answers] at start
  obtain ⟨c, eq, ⟨l, hl, ends⟩, -, steady⟩ :=
    exec_of_triple (i := .trainDone true) (completedOk_steps phase defers fec) idle start
  obtain ⟨d, hd, kept, hist, events⟩ := steady.steps_endCommand (opc := 0x06) ends.steps
  rw [ends.ret] at hist events
  refine ⟨endCommand c, _, eq, ends.active, ends.phy, ends.answers, hist, ⟨l, hl, fun nonempty x hx => ?_⟩, events⟩
  have some : d ≠ [] := by
    rintro rfl
    exact nonempty (List.append_eq_nil_iff.1 kept.symm).2
  have last : d.getLast? = .some x := by rw [← hx, ← ends.last, hd, List.getLast?_append_of_ne_nil _ some]
  simp [List.mem_of_getLast? last]

/-- Settles O35: the end whatever the agents do, and the events without FEC, with FEC seen, and with FEC given up. -/
theorem doneOk : Obligations.DoneOk := by
  refine ⟨fun s phase idle => ?_, fun s w rest phase idle quiet asked defers answers => ?_,
    fun s w misses rest phase idle quiet asked defers missed => ⟨fun hit few seen answers => ?_, fun all answers => ?_⟩⟩
  · obtain ⟨c, eq, ret, success, status, off, on⟩ := trainDone_ok s phase idle
    exact ⟨endCommand c, eq, by rw [endCommand_resStatus, ret]; rfl, success.endCommand, status, off, on⟩
  · obtain ⟨b, d, eq, -, -, aux, hist, -, events⟩ := exec_doneOk phase idle quiet defers answers
        (fecCode_notAsked (t := { s.blk.train with micro := none }) asked)
    exact ⟨b, d, eq, aux, hist, by simpa using events⟩
  · obtain ⟨b, d, eq, active, fec, aux, hist, -, events⟩ :=
      exec_doneOk phase idle quiet defers answers (fecCode_hit (t := { s.blk.train with micro := none }) asked seen missed few)
    exact ⟨b, d, eq, active, fec, aux, hist, by simpa using events⟩
  · obtain ⟨b, d, eq, active, fec, aux, hist, ⟨l, rfl, last⟩, events⟩ :=
      exec_doneOk phase idle quiet defers answers (fecCode_miss (t := { s.blk.train with micro := none }) asked missed all)
    exact ⟨b, d, eq, active, fec, aux, hist, last (by simp) _ rfl, by simpa using events⟩

end Sys2Proof.Machine
end

section
/-! PROOFS. O58: a command or service run micro-step by micro-step ends where the whole run ends (spec/00_scope.md R6;
spec/60_exceptions.md R262, R263). -/

namespace Sys2Proof.Machine

open Sys2Proof

/-! ### One micro-step after another -/

/-- Some number of micro-steps leads from `p` to `q`. -/
def Reaches (p q : Block × List Frame) : Prop := ∃ n, microRun n p = q

theorem microRun_add (m n : Nat) (p : Block × List Frame) : microRun (m + n) p = microRun n (microRun m p) := by
  induction m generalizing p with
  | zero => rw [Nat.zero_add, microRun]
  | succ m ih => rw [Nat.succ_add, microRun, ih, microRun]

theorem Reaches.refl (p : Block × List Frame) : Reaches p p := ⟨0, rfl⟩

theorem Reaches.one {b : Block} {k : List Frame} : Reaches (b, k) (microStep b k) := ⟨1, rfl⟩

theorem Reaches.trans {p q r : Block × List Frame} (h : Reaches p q) (k : Reaches q r) : Reaches p r := by
  obtain ⟨m, rfl⟩ := h
  obtain ⟨n, rfl⟩ := k
  exact ⟨m + n, microRun_add m n p⟩

/-- One micro-step, then more. -/
theorem Reaches.step {b : Block} {k : List Frame} {q : Block × List Frame} (h : Reaches (microStep b k) q) : Reaches (b, k) q :=
  Reaches.one.trans h

/-! ### The source's fairness is kept -/

/-- The sink-IRQ source's choices to come, and whether a service runs, are the same. -/
structure SameSource (b c : Block) : Prop where
  irq : c.env.irq = b.env.irq
  irqQuiet : c.env.irqQuiet = b.env.irqQuiet
  irqCount : c.env.irqCount = b.env.irqCount
  active : c.svc.active = b.svc.active

theorem SameSource.trans {b c d : Block} (h : SameSource b c) (k : SameSource c d) : SameSource b d :=
  ⟨k.irq.trans h.irq, k.irqQuiet.trans h.irqQuiet, k.irqCount.trans h.irqCount, k.active.trans h.active⟩

/-- The source is fair; and inside the service it is the service that runs. -/
def Fair (inside : Bool) (b : Block) : Prop := FairSource b.env ∧ (inside = true → b.svc.active = true)

theorem SameSource.fair {inside : Bool} {b c : Block} (same : SameSource b c) (fair : Fair inside b) : Fair inside c := by
  obtain ⟨irq, irqQuiet, irqCount, active⟩ := same
  obtain ⟨⟨scripted, free⟩, running⟩ := fair
  exact ⟨⟨irq ▸ scripted, irqQuiet ▸ irqCount ▸ free⟩, active ▸ running⟩

/-- A fair source does not choose an endless service at this boundary, and stays fair. -/
theorem drawBoundary_fair {inside : Bool} {b : Block} (fair : Fair inside b) :
    (drawBoundary b).1 ≠ .endless ∧ Fair inside (drawBoundary b).2 := by
  obtain ⟨⟨scripted, free⟩, running⟩ := fair
  simp only [drawBoundary, Env.nextBoundary]
  split
  case h_1 d ds irq =>
    rw [irq] at scripted
    obtain ⟨first, rest⟩ := List.forall_mem_cons.1 scripted
    exact ⟨first, ⟨rest, free⟩, running⟩
  case h_2 irq =>
    split
    case isTrue quiet => exact ⟨nofun, ⟨scripted, free⟩, running⟩
    case isFalse loud =>
      have free := free (by simpa using loud)
      exact ⟨free _ le_rfl, ⟨scripted, fun _ n hn => free n (Nat.le_of_succ_le hn)⟩, running⟩

/-- The AUX agent's answer leaves the source alone. -/
theorem nextAux_source (e : Env) (q : ReqReg) (w : Buf) :
    (e.nextAux q w).2.irq = e.irq ∧ (e.nextAux q w).2.irqQuiet = e.irqQuiet ∧ (e.nextAux q w).2.irqCount = e.irqCount := by
  unfold Env.nextAux
  split
  · simp
  · dsimp only
    split <;> exact ⟨rfl, rfl, rfl⟩

theorem auxIssue_source (q : Request) (rw : Rw) (buf : Buf) (b : Block) : SameSource b (auxIssue q rw buf b).2 := by
  cases h : b.aux.fsm with
  | idle => rw [auxIssue_idle h]; exact ⟨rfl, rfl, rfl, rfl⟩
  | wait => rw [auxIssue_wait h]; exact ⟨rfl, rfl, rfl, rfl⟩

theorem auxComplete_source {f : Xfer → Block → Block} (hf : ∀ x b, SameSource b (f x b)) (b : Block) :
    SameSource b (auxComplete f b) := by
  cases h : b.aux.fsm with
  | idle => rw [auxComplete_idle h]; exact ⟨rfl, rfl, rfl, rfl⟩
  | wait =>
    obtain ⟨irq, quiet, count⟩ := nextAux_source b.env b.aux.req b.aux.wdata
    rw [auxComplete_wait h]
    exact SameSource.trans ⟨by simpa using irq, by simpa using quiet, by simpa using count, by simp⟩ (hf _ _)

/-- No micro-step is a choice of the source's. -/
theorem runAct_source (a : Act) (b : Block) : SameSource b (runAct a b).2 := by
  cases a with
  | hostIssue q =>
    simp only [runAct, hostIssue]
    split
    · exact ⟨rfl, rfl, rfl, rfl⟩
    · split
      · exact ⟨rfl, rfl, rfl, rfl⟩
      · exact auxIssue_source _ _ _ b
  | hostComplete => exact auxComplete_source (f := hostResult) (fun _ _ => ⟨rfl, rfl, rfl, rfl⟩) b
  | issue a =>
    cases h : b.aux.fsm with
    | idle => simp only [runAct, accessIssue_idle h, auxIssue_idle h]; exact ⟨rfl, rfl, rfl, rfl⟩
    | wait => simp only [runAct, accessIssue, auxIssue_wait h]; exact ⟨rfl, rfl, rfl, rfl⟩
  | complete a =>
    refine auxComplete_source (fun x c => ?_) b
    unfold accessResult
    split
    · exact ⟨by rw [store_env], by rw [store_env], by rw [store_env], by rw [store_svc]⟩
    · exact ⟨rfl, rfl, rfl, rfl⟩
  | phy c => exact ⟨phyAct_env_irq c b, phyAct_env_irqQuiet c b, phyAct_env_irqCount c b, by rw [runAct, phyAct_svc]⟩
  | delay l => exact ⟨rfl, rfl, rfl, rfl⟩
  | upd u => cases u <;> exact ⟨rfl, rfl, rfl, rfl⟩

/-! ### How a piece of code ends -/

/-- What follows a piece of code that ended with `r`: it runs on only where `r` did. -/
def chain (r : Sig × Block) (g : Block → Sig × Block) : Sig × Block :=
  match r with
  | (.norm, b) => g b
  | r => r

theorem runCode_seq (hook : Block → Block) (c d : Code) (b : Block) :
    runCode hook (.seq c d) b = chain (runCode hook c b) (runCode hook d) := rfl

/-- What a deferred access still does, with `n` retries left (R149). -/
def retries (hook : Block → Block) (a : Access) (n : Nat) (b : Block) : Sig × Block :=
  if b.loc.defer then accessRetry hook a n b else (.norm, b)

/-- The two micro-steps of a wrapper's transaction (R150, R151). -/
def onceCode (a : Access) : Code := .seq (.act (.issue a)) (.act (.complete a))

theorem accessRetry_succ (hook : Block → Block) (a : Access) (n : Nat) (b : Block) :
    accessRetry hook a (n + 1) b = chain (runCode hook (onceCode a) b) (retries hook a n) := rfl

theorem runAccess_chain (hook : Block → Block) (a : Access) (b : Block) :
    runAccess hook a b = chain (runCode hook (onceCode a) b) (retries hook a Config.deferRetryMax) := rfl

/-- A `brk` of the code stands outside its loops. -/
def Code.loose : Code → Bool
  | .brk => true
  | .cond _ c d => c.loose || d.loose
  | .seq c d => c.loose || d.loose
  | .call c => c.loose
  | _ => false

/-- A halt comes of a fault raised, and a loop is left only where a `brk` stands loose. -/
def Honest (loose : Bool) (r : Sig × Block) : Prop :=
  (r.1 = .halt → r.2.faults.first? ≠ none) ∧ (r.1 = .brk → loose = true)

theorem Honest.norm (loose : Bool) (b : Block) : Honest loose (.norm, b) := ⟨nofun, nofun⟩

theorem Honest.mono {l l' : Bool} {r : Sig × Block} (h : Honest l r) (hl : l = true → l' = true) : Honest l' r :=
  ⟨h.1, hl ∘ h.2⟩

theorem first?_add (f : Fault) (s : FaultSet) : (s.add f).first? ≠ none := by
  cases f <;> simp +contextual [FaultSet.first?, FaultSet.add, ite_eq_iff]

theorem halted_honest (f : Fault) (b : Block) : Honest false (halted f b) := ⟨fun _ => first?_add f _, nofun⟩

theorem Honest.chain {l l' : Bool} {r : Sig × Block} {g : Block → Sig × Block} (h : Honest l r) (hg : ∀ b, Honest l' (g b)) :
    Honest (l || l') (chain r g) := by
  obtain ⟨sig, b⟩ := r
  cases sig with
  | norm => exact (hg b).mono fun h => by simp [h]
  | _ => exact h.mono fun h => by simp [h]

theorem auxIssue_honest (q : Request) (rw : Rw) (buf : Buf) (b : Block) : Honest false (auxIssue q rw buf b) := by
  cases h : b.aux.fsm with
  | idle => rw [auxIssue_idle h]; exact .norm _ _
  | wait => rw [auxIssue_wait h]; exact halted_honest _ b

theorem runAct_honest (a : Act) (b : Block) : Honest false (runAct a b) := by
  cases a with
  | hostIssue q =>
    simp only [runAct, hostIssue]
    split
    · exact ⟨nofun, nofun⟩
    · split
      · exact halted_honest _ b
      · exact auxIssue_honest _ _ _ b
  | issue a =>
    cases h : b.aux.fsm with
    | idle => simp only [runAct, accessIssue_idle h]; exact .norm _ _
    | wait => simp only [runAct, accessIssue, auxIssue_wait h]; exact halted_honest _ b
  | _ => exact .norm _ _

theorem iterate_honest {l : Bool} {p : Block → Sig × Block} (hp : ∀ b, Honest l (p b)) (n : Nat) (b : Block) :
    Honest false (iterate p n b) := by
  induction n generalizing b with
  | zero => exact .norm _ _
  | succ n ih =>
    have h := hp b
    simp only [iterate]
    rcases hr : p b with ⟨sig, c⟩
    rw [hr] at h
    cases sig with
    | norm => exact ih c
    | brk => exact .norm _ _
    | ret => exact ⟨nofun, nofun⟩
    | halt => exact ⟨h.1, nofun⟩

theorem onceCode_honest (hook : Block → Block) (a : Access) (b : Block) : Honest false (runCode hook (onceCode a) b) :=
  (runAct_honest _ _).chain fun _ => runAct_honest _ _

theorem retries_honest (hook : Block → Block) (a : Access) (n : Nat) (b : Block) : Honest false (retries hook a n b) := by
  induction n generalizing b with
  | zero =>
    unfold retries
    split <;> exact .norm _ _
  | succ n ih =>
    unfold retries
    split
    · rw [accessRetry_succ]
      exact (onceCode_honest hook a b).chain ih
    · exact .norm _ _

theorem runCode_honest (hook : Block → Block) (c : Code) (b : Block) : Honest c.loose (runCode hook c b) := by
  induction c generalizing b with
  | first a => exact runAct_honest a b
  | act a => exact runAct_honest a _
  | access a =>
    rw [runCode, runAccess_chain]
    exact (onceCode_honest hook a b).chain (retries_honest hook a _)
  | cond t c d ihc ihd =>
    simp only [runCode]
    split
    · exact (ihc b).mono fun h => by simp [Code.loose, h]
    · exact (ihd b).mono fun h => by simp [Code.loose, h]
  | seq c d ihc ihd =>
    rw [runCode_seq]
    exact (ihc b).chain ihd
  | loop n c ih => exact iterate_honest ih n b
  | call c ih =>
    have h := ih b
    simp only [runCode]
    rcases hr : runCode hook c b with ⟨sig, c'⟩
    rw [hr] at h
    cases sig with
    | ret => exact .norm _ _
    | _ => exact h
  | fault f => exact halted_honest f b
  | brk => exact ⟨nofun, fun _ => rfl⟩
  | _ => exact ⟨nofun, nofun⟩

/-- No command leaves a loop it is not in. -/
theorem codeOf_loose (i : Instr) : (codeOf i).loose = false := by
  cases i with
  | trainDone success => cases success <;> rfl
  | _ => rfl

/-! ### The simulation -/

/-- The micro-steps from `p` lead where a piece of code that ended with `r` leads, when `k` stands behind it; the source stays
fair. -/
def EndsAt (inside : Bool) (r : Sig × Block) (p : Block × List Frame) (k : List Frame) : Prop :=
  Fair inside r.2 ∧ ∃ stay, Reaches p (r.2, unwind r.1 stay k)

section
variable {inside : Bool} {hook : Block → Block} {r : Sig × Block} {p q : Block × List Frame} {b : Block} {k : List Frame}

theorem EndsAt.from (h : Reaches p q) (ends : EndsAt inside r q k) : EndsAt inside r p k := by
  obtain ⟨fair, stay, reaches⟩ := ends
  exact ⟨fair, stay, h.trans reaches⟩

theorem EndsAt.here (fair : Fair inside b) : EndsAt inside (.norm, b) (b, k) k := ⟨fair, [], .refl _⟩

/-- A frame that a `return` and the leaving of a loop pass over. -/
def Passed (f : Frame) : Prop := ∀ k, unwindRet (f :: k) = unwindRet k ∧ unwindBrk (f :: k) = unwindBrk k

/-- A piece of code, then what stands behind it in the frame `f`. -/
theorem EndsAt.chain {f : Frame} {g : Block → Sig × Block} (passed : Passed f) (first : EndsAt inside r p (f :: k))
    (rest : ∀ b, Fair inside b → EndsAt inside (g b) (b, f :: k) k) : EndsAt inside (chain r g) p k := by
  obtain ⟨sig, b⟩ := r
  obtain ⟨fair, stay, reaches⟩ := first
  obtain ⟨ret, brk⟩ := passed k
  cases sig with
  | norm => exact (rest b fair).from reaches
  | brk => exact ⟨fair, stay, by rwa [unwind, brk] at reaches⟩
  | ret => exact ⟨fair, stay, by rwa [unwind, ret] at reaches⟩
  | halt => exact ⟨fair, stay, reaches⟩

/-- The boundary `hook` of a whole run is what the micro-steps do at a boundary. -/
def SoundHook (inside : Bool) (hook : Block → Block) : Prop :=
  ∀ b, Fair inside b → Fair inside (hook b) ∧
    ∀ k, Reaches ((drawBoundary b).2, serveFrames (drawBoundary b).1 ++ k) (hook b, k)

/-- The code run micro-step by micro-step ends where its whole run ends, whatever stands behind it. -/
def Simulated (inside : Bool) (hook : Block → Block) (c : Code) : Prop :=
  ∀ b k, Fair inside b → EndsAt inside (runCode hook c b) (b, .code c :: k) k

theorem first_simulated (a : Act) : Simulated inside hook (.first a) := fun b k fair =>
  ⟨(runAct_source a b).fair fair, .code (.first a) :: k, .one⟩

theorem act_simulated (sound : SoundHook inside hook) (a : Act) : Simulated inside hook (.act a) := fun b k fair =>
  have ⟨fair', reaches⟩ := sound b fair
  ⟨(runAct_source a _).fair fair', .now a :: k, .step ((reaches _).trans .one)⟩

/-- Two pieces of code that stand one after the other. -/
theorem seq_frames {c d : Code} (hc : Simulated inside hook c) (hd : Simulated inside hook d) (fair : Fair inside b) :
    EndsAt inside (runCode hook (.seq c d) b) (b, .code c :: .code d :: k) k := by
  rw [runCode_seq]
  exact (hc b _ fair).chain (fun _ => ⟨rfl, rfl⟩) fun b' fair' => hd b' k fair'

/-- The two micro-steps of a transaction, with the retry frame behind them. -/
theorem once_frames (sound : SoundHook inside hook) (a : Access) (fair : Fair inside b) :
    EndsAt inside (runCode hook (onceCode a) b) (b, .code (.act (.issue a)) :: .code (.act (.complete a)) :: k) k :=
  seq_frames (act_simulated sound _) (act_simulated sound _) fair

theorem retry_frames (sound : SoundHook inside hook) (a : Access) (n : Nat) :
    ∀ b, Fair inside b → EndsAt inside (retries hook a n b) (b, .retry a n :: k) k := by
  have done {n : Nat} {b : Block} (fair : Fair inside b) (step : microStep b (.retry a n :: k) = (b, k)) :
      EndsAt inside (.norm, b) (b, .retry a n :: k) k :=
    .from .one (step ▸ .here fair)
  induction n with
  | zero =>
    intro b fair
    have ends := done (n := 0) fair (by cases h : b.loc.defer <;> simp only [microStep, h])
    unfold retries
    split <;> exact ends
  | succ n ih =>
    intro b fair
    unfold retries
    cases defer : b.loc.defer with
    | true =>
      have step : microStep b (.retry a (n + 1) :: k) =
          (b, .code (.act (.issue a)) :: .code (.act (.complete a)) :: .retry a n :: k) := by simp only [microStep, defer]
      rw [if_pos rfl, accessRetry_succ]
      exact .from .one (step ▸ (once_frames sound a fair).chain (fun _ => ⟨rfl, rfl⟩) ih)
    | false => exact done fair (by simp only [microStep, defer])

theorem access_simulated (sound : SoundHook inside hook) (a : Access) : Simulated inside hook (.access a) := by
  intro b k fair
  rw [runCode, runAccess_chain]
  exact .from .one <| (once_frames sound a fair).chain (fun _ => ⟨rfl, rfl⟩) (retry_frames sound a _)

theorem loop_simulated {c : Code} (hc : Simulated inside hook c) (n : Nat) : Simulated inside hook (.loop n c) := by
  induction n with
  | zero => exact fun b k fair => .from .one (.here fair)
  | succ n ih =>
    intro b k fair
    have round := hc b (.loopEnd n c :: k) fair
    refine .from .one ?_
    show EndsAt inside (iterate (runCode hook c) (n + 1) b) (b, .code c :: .loopEnd n c :: k) k
    simp only [iterate]
    rcases hr : runCode hook c b with ⟨sig, b'⟩
    rw [hr] at round
    obtain ⟨fair', stay, reaches⟩ := round
    cases sig with
    | norm => exact .from (reaches.trans .one) (ih b' k fair')
    | brk => exact ⟨fair', stay, reaches⟩
    | ret => exact ⟨fair', stay, reaches⟩
    | halt => exact ⟨fair', stay, reaches⟩

theorem call_simulated {c : Code} (hc : Simulated inside hook c) : Simulated inside hook (.call c) := by
  intro b k fair
  have body := hc b (.callEnd :: k) fair
  refine .from .one ?_
  simp only [runCode]
  rcases hr : runCode hook c b with ⟨sig, b'⟩
  rw [hr] at body
  obtain ⟨fair', stay, reaches⟩ := body
  cases sig with
  | norm => exact ⟨fair', stay, reaches.trans .one⟩
  | brk => exact ⟨fair', stay, reaches⟩
  | ret => exact ⟨fair', stay, reaches⟩
  | halt => exact ⟨fair', stay, reaches⟩

/-- Every code run micro-step by micro-step ends where its whole run ends, if that is so of its boundaries (R6). -/
theorem runCode_simulated (sound : SoundHook inside hook) (c : Code) : Simulated inside hook c := by
  induction c with
  | first a => exact first_simulated a
  | act a => exact act_simulated sound a
  | access a => exact access_simulated sound a
  | cond t c d ihc ihd =>
    intro b k fair
    refine .from .one ?_
    simp only [runCode, microStep]
    split
    · exact ihc b k fair
    · exact ihd b k fair
  | seq c d ihc ihd => exact fun b k fair => .from .one (seq_frames ihc ihd fair)
  | loop n c ih => exact loop_simulated ih n
  | call c ih => exact call_simulated ih
  | fault f => exact fun b k fair => ⟨fair, .code (.fault f) :: k, .one⟩
  | _ => exact fun b k fair => ⟨fair, [], .one⟩

end

/-! ### The service (R262) -/

/-- Inside the service no other is taken (R266). -/
theorem quietBoundary_sound : SoundHook true quietBoundary := by
  intro b fair
  obtain ⟨ends, fair'⟩ := drawBoundary_fair fair
  refine ⟨fair', fun k => ?_⟩
  have closed : serviceAdmitted (drawBoundary b).2 = false := by simp [serviceAdmitted, fair'.2 rfl]
  cases h : (drawBoundary b).1 with
  | endless => exact absurd h ends
  | times n =>
    cases n with
    | zero => exact .refl _
    | succ n => exact .step (by simpa only [serveFrames, List.singleton_append, microStep, closed] using .refl _)

/-- A service that is admitted, run micro-step by micro-step, ends where the whole service ends (R6, R262). -/
theorem runService_reaches {b : Block} {k : List Frame} (fair : FairSource b.env) (admitted : serviceAdmitted b = true) :
    FairSource (runService b).env ∧
      Reaches (beginService b, .code parserCode :: .endService b.loc :: k) (runService b, k) := by
  obtain ⟨-, -, idle⟩ := (serviceAdmitted_iff b).1 admitted
  obtain ⟨noHalt, noBrk, -⟩ := service_keeps idle
  have run := runCode_simulated quietBoundary_sound parserCode (beginService b) (.endService b.loc :: k) ⟨fair, fun _ => rfl⟩
  rw [runService_eq idle, endService_env]
  rcases hr : runCode quietBoundary parserCode (beginService b) with ⟨sig, c⟩
  rw [hr] at noHalt noBrk run
  obtain ⟨⟨fair', -⟩, stay, reaches⟩ := run
  cases sig with
  | norm => exact ⟨fair', reaches.trans .one⟩
  | ret => exact ⟨fair', reaches.trans .one⟩
  | brk => exact absurd rfl noBrk
  | halt => exact absurd rfl noHalt

/-- The services taken in a row, run micro-step by micro-step (R262, R264). -/
theorem serve_reaches (n : Nat) {b : Block} {k : List Frame} (fair : FairSource b.env) :
    FairSource (serve n b).env ∧ Reaches (b, .serve n :: k) (serve n b, k) := by
  induction n generalizing b with
  | zero => exact ⟨fair, .one⟩
  | succ n ih =>
    cases admitted : serviceAdmitted b with
    | false =>
      rw [serve_closed admitted]
      exact ⟨fair, .step (by simpa only [microStep, admitted] using .refl _)⟩
    | true =>
      obtain ⟨fair', service⟩ := runService_reaches fair admitted
      obtain ⟨fair'', rest⟩ := ih fair'
      simp only [serve, admitted, if_true]
      exact ⟨fair'', .step (by simpa only [microStep, admitted, if_true] using service.trans rest)⟩

/-- The boundary between the micro-steps of a command (R262). -/
theorem boundary_sound : SoundHook false boundary := by
  intro b fair
  obtain ⟨ends, fair'⟩ := drawBoundary_fair fair
  rw [boundary]
  cases h : (drawBoundary b).1 with
  | endless => exact absurd h ends
  | times n =>
    have serve {k : List Frame} := serve_reaches n (k := k) fair'.1
    refine ⟨⟨(serve (k := [])).1, nofun⟩, fun k => ?_⟩
    cases n with
    | zero => exact .refl _
    | succ n => exact serve.2

/-! ### The command (R251) -/

/-- The end of the command, and the boundary between commands (R251, R262). -/
theorem endCmd_reaches (b : Block) : Reaches (b, [.endCmd]) (between (endCommand b)) :=
  .step (by simpa only [microStep, List.append_nil] using .refl _)

/-- Where a command ended without a fault, its micro-steps reach the boundary between commands, or, if a mark was set before it, the
block it left. -/
theorem ended_command {p : Block × List Frame} {b : Block} (reaches : Reaches p (b, [.endCmd])) :
    ∃ n, ((endCommand b).faults.first? = none → microRun n p = between (endCommand b)) ∧
      ((endCommand b).faults.first? ≠ none → (microRun n p).1 = endCommand b) := by
  obtain ⟨n, run⟩ := reaches.trans (endCmd_reaches b)
  refine ⟨n, fun _ => run, fun fault => ?_⟩
  obtain ⟨f, raised⟩ := Option.ne_none_iff_exists'.1 fault
  rw [run, between, raised]

/-- Settles O58, by simulation: each code's micro-steps, its boundaries among them, end where its whole run ends. -/
theorem microStepsRunCommand : Obligations.MicroStepsRunCommand := by
  refine ⟨fun i s _ fair => ?_, fun b n k fair => (serve_reaches n fair).2⟩
  have run := runCode_simulated boundary_sound (codeOf i) (log (.cmdStart (opcodeOf i)) s.blk) [.endCmd] ⟨fair, nofun⟩
  have honest := runCode_honest boundary (codeOf i) (log (.cmdStart (opcodeOf i)) s.blk)
  rw [codeOf_loose] at honest
  rw [exec_eq, runCommand]
  rcases hr : runCode boundary (codeOf i) (log (.cmdStart (opcodeOf i)) s.blk) with ⟨sig, c⟩
  rw [hr] at run honest
  obtain ⟨-, stay, reaches⟩ := run
  obtain ⟨raised, leaves⟩ := honest
  cases sig with
  | norm =>
    obtain ⟨n, ends⟩ := ended_command reaches
    exact ⟨n, _, rfl, ends⟩
  | ret =>
    obtain ⟨n, ends⟩ := ended_command reaches
    exact ⟨n, _, rfl, ends⟩
  | brk => cases leaves rfl
  | halt =>
    obtain ⟨n, ends⟩ := reaches
    exact ⟨n, c, rfl, fun none => absurd none (raised rfl), fun _ => congrArg Prod.fst ends⟩

end Sys2Proof.Machine
end

section
/-! PROOFS. What a command, a micro-step and a step do to the block follows from what their parts do, whatever the position and the
state (spec/00_scope.md R6; spec/60_exceptions.md R251, R255, R262). -/

namespace Sys2Proof.Machine

open Sys2Proof

/-! ### Code whose micro-steps are all of one kind -/

/-- Every micro-step of the code is one of `p`. -/
def Code.only (p : Act → Bool) : Code → Bool
  | .first a => p a
  | .act a => p a
  | .access a => p (.issue a) && p (.complete a)
  | .cond _ c d => c.only p && d.only p
  | .seq c d => c.only p && d.only p
  | .loop _ c => c.only p
  | .call c => c.only p
  | _ => true

theorem Code.only_all (c : Code) : c.only (fun _ => true) = true := by
  induction c with
  | cond t c d ihc ihd => simp [Code.only, ihc, ihd]
  | seq c d ihc ihd => simp [Code.only, ihc, ihd]
  | loop n c ih => exact ih
  | call c ih => exact ih
  | _ => rfl

/-- `R` relates the block before to the block after in every part of a code whose micro-steps are all of `p`. -/
structure Carries (p : Act → Bool) (R : Block → Block → Prop) : Prop where
  refl : ∀ b, R b b
  trans : ∀ a b c, R a b → R b c → R a c
  act : ∀ a, p a = true → ∀ b, R b (runAct a b).2
  mark : ∀ m b, R b { b with train.micro := m }
  returning : ∀ st b, R b (returning st b).2
  raise : ∀ f b, R b (raise f b)

section
variable {p : Act → Bool} {R : Block → Block → Prop} {hook : Block → Block}

theorem Carries.chain (C : Carries p R) {r : Sig × Block} {g : Block → Sig × Block} {b : Block} (first : R b r.2)
    (rest : ∀ c, R c (g c).2) : R b (chain r g).2 := by
  obtain ⟨sig, c⟩ := r
  cases sig with
  | norm => exact C.trans _ _ _ first (rest c)
  | _ => exact first

/-- A piece of code does to the block what its micro-steps and its boundaries do. -/
theorem Carries.runCode (C : Carries p R) (boundary : ∀ b, R b (hook b)) (c : Code) (only : c.only p = true) (b : Block) :
    R b (runCode hook c b).2 := by
  have act (a : Act) (ha : p a = true) (b : Block) : R b (Machine.runCode hook (.act a) b).2 :=
    C.trans _ _ _ (boundary b) (C.act a ha _)
  induction c generalizing b with
  | first a => exact C.act a only b
  | act a => exact act a only b
  | access a =>
    simp only [Code.only, Bool.and_eq_true] at only
    have once (b : Block) : R b (accessOnce hook a b).2 := C.chain (act _ only.1 b) (act _ only.2)
    exact (runAccess_runs (I := fun _ => True) (Q := fun _ => True) trivial C.refl C.trans
      (fun b _ => ⟨trivial, trivial, once b⟩) b trivial).2.2
  | cond t c d ihc ihd =>
    simp only [Code.only, Bool.and_eq_true] at only
    simp only [Machine.runCode]
    split
    · exact ihc only.1 b
    · exact ihd only.2 b
  | seq c d ihc ihd =>
    simp only [Code.only, Bool.and_eq_true] at only
    rw [runCode_seq]
    exact C.chain (ihc only.1 b) (ihd only.2)
  | loop n c ih =>
    exact (iterate_runs (I := fun _ => True) (Q := fun _ => True) trivial C.refl C.trans
      (fun b _ => ⟨trivial, trivial, ih only b⟩) n b trivial).2.2
  | call c ih =>
    have called := ih only b
    simp only [Machine.runCode]
    split
    · rename_i eq
      rwa [eq] at called
    · exact called
  | mark m => exact C.mark m b
  | ret st => exact C.returning st b
  | retSt => exact C.returning b.loc.st b
  | fault f => exact C.raise f b
  | _ => exact C.refl b

end

/-- What a command leaves: the block its code left, at a fault, or else that block with the command ended (R251, R255). -/
theorem exec_left {i : Instr} {s t : State} (h : exec i s = .next t) :
    t.blk = (runCode boundary (codeOf i) (log (.cmdStart (opcodeOf i)) s.blk)).2 ∨
      t.blk = endCommand (runCode boundary (codeOf i) (log (.cmdStart (opcodeOf i)) s.blk)).2 := by
  rw [exec_eq, runCommand] at h
  injection h with h
  subst h
  rcases runCode boundary (codeOf i) (log (.cmdStart (opcodeOf i)) s.blk) with ⟨sig, c⟩
  cases sig with
  | halt => exact .inl rfl
  | _ => exact .inr rfl

/-- A command does to the block what its acceptance, its code and its end do. -/
theorem Carries.exec {p : Act → Bool} {R : Block → Block → Prop} (C : Carries p R) (boundary : ∀ b, R b (boundary b))
    (start : ∀ opc b, R b (log (.cmdStart opc) b)) (ended : ∀ b, R b (endCommand b)) {i : Instr} {s t : State}
    (only : (codeOf i).only p = true) (h : exec i s = .next t) : R s.blk t.blk := by
  have code := C.trans _ _ _ (start (opcodeOf i) s.blk) (C.runCode boundary (codeOf i) only _)
  obtain eq | eq := exec_left h
  · rwa [eq]
  · rw [eq]
    exact C.trans _ _ _ code (ended _)

/-! ### Every step -/

/-- `R` relates the block before to the block after in every part of every step. -/
structure Lasting (R : Block → Block → Prop) : Prop extends Carries (fun _ => true) R where
  draw : ∀ b, R b (drawBoundary b).2
  request : ∀ b, R b (requestService b)
  beginService : ∀ b, R b (beginService b)
  endService : ∀ saved b, R b (endService saved b)
  cmdStart : ∀ opc b, R b (log (.cmdStart opc) b)
  endCommand : ∀ b, R b (endCommand b)
  hcmd : ∀ w b, R b { b with port.hcmd := w }
  refuse : ∀ b, R b { b with refused := true }
  writeHbuf : ∀ i v b, R b (writeHbuf i v b)

section
variable {R : Block → Block → Prop}

theorem Lasting.runService (L : Lasting R) (b : Block) : R b (runService b) := by
  have parsed := L.trans _ _ _ (L.beginService b)
    (L.runCode (hook := quietBoundary) L.draw parserCode parserCode.only_all _)
  unfold Machine.runService
  revert parsed
  rcases Machine.runCode quietBoundary parserCode (Machine.beginService b) with ⟨sig, c⟩
  intro parsed
  cases sig with
  | halt => exact parsed
  | _ => exact L.trans _ _ _ parsed (L.endService _ c)

theorem Lasting.boundary (L : Lasting R) (b : Block) : R b (boundary b) :=
  boundary_keeps L.refl L.trans L.draw (fun b _ => L.runService b) b

theorem Lasting.exec (L : Lasting R) {i : Instr} {s t : State} (h : exec i s = .next t) : R s.blk t.blk :=
  L.toCarries.exec L.boundary L.cmdStart L.endCommand (Code.only_all _) h

theorem Lasting.between (L : Lasting R) (b : Block) : R b (between b).1 := by
  unfold Machine.between
  split
  · exact L.draw b
  · exact L.refl b

/-- A micro-step, a boundary's choice or a move of the position, at any position. -/
theorem Lasting.microStep (L : Lasting R) (b : Block) (k : List Frame) : R b (microStep b k).1 := by
  have act (a : Act) : R b (runAct a b).2 := L.act a rfl b
  cases k with
  | nil => exact L.refl b
  | cons f k =>
    cases f with
    | now a => exact act a
    | serve n =>
      cases n with
      | zero => exact L.refl b
      | succ n =>
        simp only [Machine.microStep]
        split
        · exact L.beginService b
        · exact L.refl b
    | serveOn =>
      simp only [Machine.microStep]
      split
      · exact L.beginService b
      · exact L.request b
    | endService saved => exact L.endService saved b
    | retry a n =>
      simp only [Machine.microStep]
      split <;> exact L.refl b
    | endCmd => exact L.trans _ _ _ (L.endCommand b) (L.between _)
    | code c =>
      cases c with
      | first a => exact act a
      | act a => exact L.draw b
      | mark m => exact L.mark m b
      | loop n c => cases n <;> exact L.refl b
      | ret st => exact L.returning st b
      | retSt => exact L.returning b.loc.st b
      | fault f => exact L.raise f b
      | _ => exact L.refl b
    | _ => exact L.refl b

/-- A step while a command or a service runs, whatever the host does (R42, R262). -/
theorem Lasting.runningStep (L : Lasting R) (s : State) : R s.blk (runningStep s).blk := by
  have write : R s.blk (hostWrite s).blk := by
    unfold hostWrite
    split
    · exact L.raise _ _
    · exact L.microStep _ _
  unfold Machine.runningStep
  split
  · exact L.microStep _ _
  · exact L.microStep _ _
  · exact L.microStep _ _
  · exact write
  · exact write
  · exact write

/-- A word written and left to run, or refused (R98, R251). -/
theorem Lasting.writeCommand (L : Lasting R) (w : CommandWord) (rest : List HostAction) (s : State) :
    R s.blk (writeCommand w rest s).blk := by
  unfold Machine.writeCommand
  split
  · exact L.trans _ _ _ (L.hcmd _ s.blk) (L.cmdStart _ _)
  · exact L.refuse s.blk

/-- A command run whole, with the boundary that follows it (R262). -/
theorem Lasting.afterCommand (L : Lasting R) {i : Instr} {s t : State} (h : afterCommand (Machine.exec i s) = .next t) :
    R s.blk t.blk := by
  obtain ⟨c, eq⟩ := exec_next i s
  have ran := L.exec eq
  rw [eq] at h
  injection h with h
  subst h
  exact L.trans _ _ _ ran (L.between c)

/-- What lasts over every part of every step lasts over every step. -/
theorem Lasting.step (L : Lasting R) {s t : State} (h : step s = .next t) : R s.blk t.blk := by
  unfold Machine.step at h
  split at h
  · cases h
  · split at h
    · cases h
      exact L.runningStep s
    · split at h
      · cases h
        exact L.between s.blk
      · cases h
        exact L.between s.blk
      · cases h
        exact L.refl s.blk
      · cases h
        exact L.writeHbuf _ _ _
      · cases h
        exact L.writeCommand _ _ _
      · split at h
        · have ran := L.afterCommand h
          exact L.trans _ _ _ (L.hcmd _ s.blk) ran
        · cases h
          exact L.refuse s.blk

end

end Sys2Proof.Machine
end

section
/-! PROOFS. O49: the boundary's frame (spec/60_exceptions.md R262); and O54: what no step takes back (spec/10_state.md R31, R39, R40). -/

namespace Sys2Proof.Machine

open Sys2Proof

/-- Settles O49: the boundary is one of the `Gentle` ones. -/
theorem serviceTransparent : Obligations.ServiceTransparent := fun b =>
  ⟨boundary_gentle.same b, boundary_gentle.hist b, boundary_gentle.fsm b, boundary_gentle.active b⟩

/-! ### Faults -/

theorem FaultSet.Subset.refl (s : FaultSet) : s.Subset s := ⟨id, id, id, id, id⟩

theorem FaultSet.Subset.trans {a b c : FaultSet} (h : a.Subset b) (k : b.Subset c) : a.Subset c := by
  obtain ⟨h1, h2, h3, h4, h5⟩ := h
  obtain ⟨k1, k2, k3, k4, k5⟩ := k
  exact ⟨k1 ∘ h1, k2 ∘ h2, k3 ∘ h3, k4 ∘ h4, k5 ∘ h5⟩

theorem FaultSet.subset_add (s : FaultSet) (f : Fault) : s.Subset (s.add f) := by
  cases f <;> simp [FaultSet.Subset, FaultSet.add]

/-! ### What grows -/

theorem Block.Grows.refl (b : Block) : b.Grows b := ⟨List.prefix_rfl, .refl _, id, id, fun _ => id⟩

theorem Block.Grows.trans {a b c : Block} (h : a.Grows b) (k : b.Grows c) : a.Grows c :=
  ⟨h.hist.trans k.hist, h.faults.trans k.faults, k.refused ∘ h.refused, k.locked ∘ h.locked, fun i => k.written i ∘ h.written i⟩

/-- Where the marks and the lock are the same, only the history is left to grow. -/
theorem Block.Grows.of_eq {a b : Block} (hist : a.hist <+: b.hist) (faults : b.faults = a.faults) (refused : b.refused = a.refused)
    (store : b.store = a.store) (written : b.port.hbufWritten = a.port.hbufWritten) : a.Grows b :=
  ⟨hist, faults ▸ .refl _, refused ▸ id, store ▸ id, written ▸ fun _ => id⟩

theorem grows_log (e : Event) (b : Block) : b.Grows (log e b) := .of_eq (List.prefix_append _ _) rfl rfl rfl rfl

theorem grows_raise (f : Fault) (b : Block) : b.Grows (raise f b) :=
  ⟨List.prefix_rfl, b.faults.subset_add f, id, id, fun _ => id⟩

theorem Steady.grows {a b : Block} (h : Steady a b) (locked : a.store.configLocked = true → b.store.configLocked = true) :
    a.Grows b :=
  ⟨h.hist, h.faults ▸ .refl _, h.refused ▸ id, locked, h.port ▸ fun _ => id⟩

theorem auxIssue_grows (q : Request) (rw : Rw) (buf : Buf) (b : Block) : b.Grows (auxIssue q rw buf b).2 := by
  cases h : b.aux.fsm with
  | idle => rw [auxIssue_idle h]; exact .of_eq (List.prefix_append _ _) rfl rfl rfl rfl
  | wait => rw [auxIssue_wait h]; exact grows_raise _ b

/-- The end of a transfer grows the history; what is done with the result is left to `k`. -/
theorem auxComplete_grows {k : Xfer → Block → Block} (hk : ∀ x (c : Block), c.Grows (k x c)) (b : Block) : b.Grows (auxComplete k b) := by
  cases h : b.aux.fsm with
  | idle => rw [auxComplete_idle h]; exact .refl b
  | wait =>
    rw [auxComplete_wait h]
    refine Block.Grows.trans ?_ (hk _ _)
    refine Block.Grows.trans (.of_eq ?_ ?_ ?_ ?_ ?_) ((logXfer_steady _ _).grows ?_) <;> simp [takeAnswer_hist]

theorem hostIssue_grows (q : Request) (b : Block) : b.Grows (hostIssue q b).2 := by
  unfold hostIssue
  split
  · exact .of_eq List.prefix_rfl rfl rfl rfl rfl
  · split
    · exact grows_raise _ b
    · exact auxIssue_grows _ _ _ b

theorem hostResult_grows (x : Xfer) (b : Block) : b.Grows (hostResult x b) := by
  unfold hostResult
  generalize b.port.hbuf.put x.data = buf
  exact .of_eq List.prefix_rfl rfl rfl rfl rfl

theorem accessIssue_grows (a : Access) (b : Block) : b.Grows (accessIssue a b).2 := by
  cases h : b.aux.fsm with
  | idle =>
    obtain ⟨-, steady, keeps⟩ := accessIssue_keeps (a := a) h
    exact steady.grows (keeps.store ▸ id)
  | wait => rw [accessIssue, auxIssue_wait h]; exact grows_raise _ b

/-- No internal update opens the lock (R31). -/
theorem runUpdate_grows (u : Update) (b : Block) : b.Grows (runUpdate u b) := by
  cases u with
  | fecGiveUp => exact .of_eq (List.prefix_append _ _) rfl rfl rfl rfl
  | irqBegin => exact .of_eq (List.prefix_append _ _) rfl rfl rfl rfl
  | initBegin => exact ⟨List.prefix_rfl, .refl _, id, fun _ => rfl, fun _ => id⟩
  | _ => exact ⟨List.prefix_rfl, .refl _, id, id, fun _ => id⟩

theorem runAct_grows (a : Act) (b : Block) : b.Grows (runAct a b).2 := by
  cases a with
  | hostIssue q => exact hostIssue_grows q b
  | hostComplete => exact auxComplete_grows hostResult_grows b
  | issue a => exact accessIssue_grows a b
  | complete a =>
    obtain ⟨steady, keeps⟩ := accessComplete_keeps a b
    exact steady.grows (keeps.store ▸ id)
  | phy c => exact (phyAct_steady c b).grows (by rw [phyAct_store]; exact id)
  | delay l => exact grows_log _ b
  | upd u => exact runUpdate_grows u b

theorem writeHbuf_grows (i : Fin 16) (v : Byte) (b : Block) : b.Grows (writeHbuf i v b) := by
  refine ⟨List.prefix_rfl, .refl _, id, id, fun j written => ?_⟩
  rw [writeHbuf_written]
  by_cases h : i.val = j.val
  · simp [h]
  · simpa [Fin.getElem_fin, Vector.getElem_set, h] using written

theorem grows_lasting : Lasting Block.Grows where
  refl := .refl
  trans _ _ _ := .trans
  act a _ := runAct_grows a
  mark _ _ := .of_eq List.prefix_rfl rfl rfl rfl rfl
  returning _ _ := .of_eq List.prefix_rfl rfl rfl rfl rfl
  raise := grows_raise
  draw _ := .of_eq List.prefix_rfl rfl rfl rfl rfl
  request _ := .of_eq List.prefix_rfl rfl rfl rfl rfl
  beginService _ := .of_eq List.prefix_rfl rfl rfl rfl rfl
  endService saved b := .of_eq (endService_hist saved b) (endService_faults saved b) (endService_refused saved b)
    (endService_store saved b) (by rw [endService_port])
  cmdStart _ := grows_log _
  endCommand _ := .of_eq (List.prefix_append _ _) rfl rfl rfl rfl
  hcmd _ _ := .of_eq List.prefix_rfl rfl rfl rfl rfl
  refuse _ := ⟨List.prefix_rfl, .refl _, fun _ => rfl, id, fun _ => id⟩
  writeHbuf := writeHbuf_grows

/-- Settles O54: each part of a step only lets the block grow. -/
theorem stepGrows : Obligations.StepGrows := fun _ _ => grows_lasting.step

end Sys2Proof.Machine
end

section
/-! PROOFS. O52, O53 and O56: the invariant at reset and over every step (spec/10_state.md R21; spec/20_memory.md R66;
spec/30_encoding.md R82, R83, R100), and the stop at a fault (spec/60_exceptions.md R255). -/

namespace Sys2Proof.Machine

open Sys2Proof

/-! ### The trace of the engine (R21, R66) -/

theorem auxTrace_append (f : AuxFsm) (l : List Event) (e : Event) :
    auxTrace f (l ++ [e]) = (auxTrace f l).bind fun g => auxEvent g e := by
  induction l generalizing f with
  | nil =>
    simp only [List.nil_append, auxTrace, Option.bind_some]
    cases auxEvent f e <;> rfl
  | cons x l ih =>
    simp only [List.cons_append, auxTrace]
    cases auxEvent f x with
    | none => rfl
    | some g => exact ih g

/-- An event that is no issue and no answer leaves the engine's state. -/
def Event.quiet (e : Event) : Bool := !e.isIssue && !e.isAnswer

theorem auxEvent_quiet {e : Event} (h : e.quiet = true) (f : AuxFsm) : auxEvent f e = some f := by
  cases e with
  | auxIssue => cases h
  | auxReply => cases h
  | auxTimeout => cases h
  | _ => rfl

theorem auxTrace_quiet {e : Event} (h : e.quiet = true) (f : AuxFsm) (l : List Event) : auxTrace f (l ++ [e]) = auxTrace f l := by
  rw [auxTrace_append]
  cases auxTrace f l with
  | none => rfl
  | some g => exact auxEvent_quiet h g

/-! ### What the invariant depends on -/

/-- The invariant depends on the trace of the history, the engine, the shadows and the reference sink only. -/
theorem Block.Inv.congr {b c : Block} (inv : b.Inv) (trace : auxTrace .idle c.hist = auxTrace .idle b.hist) (aux : c.aux = b.aux)
    (phy : c.phy = b.phy) (sink : c.env.sink = b.env.sink) : c.Inv where
  single := by rw [SingleOutstanding, trace, aux]; exact inv.single
  request := by rw [RequestLegal, aux]; exact inv.request
  transmitter := phy ▸ inv.transmitter
  sink := by rw [SinkWf, sink]; exact inv.sink
  completion := aux ▸ inv.completion

theorem Block.Inv.log {b : Block} (inv : b.Inv) {e : Event} (h : e.quiet = true) : (log e b).Inv :=
  inv.congr (auxTrace_quiet h _ _) rfl rfl rfl

/-! ### The engine's micro-steps (R126 to R128) -/

/-- A request that may be issued: of size at most 16, and native only without MOT and as a read or write (R82, R83, R87). -/
def Issuable (q : Request) (rw : Rw) : Prop := q.size ≤ 16#8 ∧ (q.isI2c = false → q.isMot = false ∧ rw ≠ .wsu)

theorem issuable_of_valid {q : Request} {rw : Rw} (h : validRw q = some rw) : Issuable q rw := by
  obtain ⟨-, size, native⟩ := validRw_some h
  exact ⟨size, fun i2c => ⟨(native i2c).1, (native i2c).2.2⟩⟩

theorem issuable_access (a : Access) : Issuable a.request a.rw :=
  ⟨BitVec.le_def.2 a.size_le, fun _ => ⟨rfl, by unfold Access.rw; split <;> decide⟩⟩

/-- An issue opens a transaction for a legal request, or is the fault of a second one (R127). -/
theorem auxIssue_inv {q : Request} {rw : Rw} (legal : Issuable q rw) (buf : Buf) {b : Block} (inv : b.Inv) :
    (auxIssue q rw buf b).2.Inv := by
  cases h : b.aux.fsm with
  | wait => rw [auxIssue_wait h]; exact inv.congr rfl rfl rfl rfl
  | idle =>
    have single := inv.single
    rw [SingleOutstanding, h] at single
    rw [auxIssue_idle h]
    exact {
      single := by rw [SingleOutstanding, log_hist, auxTrace_append, single]; rfl
      request := fun _ => ⟨format_legal legal.1, legal.2⟩
      transmitter := inv.transmitter
      sink := inv.sink
      completion := rfl }

/-- The answer closes the open transaction (R128). -/
theorem takeAnswer_inv (a : AuxAnswer) {b : Block} (inv : b.Inv) (h : b.aux.fsm = .wait) : (takeAnswer a b).Inv where
  single := by
    have single := inv.single
    rw [SingleOutstanding, h] at single
    rw [SingleOutstanding, takeAnswer_hist, auxTrace_append, single, takeAnswer_fsm]
    cases a <;> rfl
  request wait := by rw [takeAnswer_fsm] at wait; cases wait
  transmitter := by rw [takeAnswer_phy]; exact inv.transmitter
  sink := by rw [takeAnswer_env]; exact inv.sink
  completion := by
    cases a with
    | reply => rfl
    | timedOut => exact inv.completion

theorem logXfer_inv (x : Xfer) {b : Block} (inv : b.Inv) : (logXfer x b).Inv := by
  unfold logXfer
  split
  · exact inv.log rfl
  · exact inv

theorem auxComplete_inv {k : Xfer → Block → Block} (hk : ∀ x (c : Block), c.Inv → (k x c).Inv) {b : Block} (inv : b.Inv) :
    (auxComplete k b).Inv := by
  cases h : b.aux.fsm with
  | idle => rwa [auxComplete_idle h]
  | wait =>
    rw [auxComplete_wait h]
    refine hk _ _ (logXfer_inv _ (takeAnswer_inv _ ?_ h))
    exact { inv with sink := nextAux_sinkWf inv.sink _ _ }

theorem accessIssue_inv (a : Access) {b : Block} (inv : b.Inv) : (accessIssue a b).2.Inv := by
  have issued := auxIssue_inv (issuable_access a) (b.ibuf.put (a.data b)) inv
  cases h : b.aux.fsm with
  | idle => rw [accessIssue_idle h]; exact issued.congr rfl rfl rfl rfl
  | wait => rw [accessIssue, auxIssue_wait h]; exact inv.congr rfl rfl rfl rfl

theorem hostIssue_inv (q : Request) {b : Block} (inv : b.Inv) : (hostIssue q b).2.Inv := by
  unfold hostIssue
  split
  case h_1 => exact inv.congr rfl rfl rfl rfl
  case h_2 rw valid =>
    split
    · exact inv.congr rfl rfl rfl rfl
    · exact auxIssue_inv (issuable_of_valid valid) _ inv

theorem accessResult_inv (a : Access) (x : Xfer) {b : Block} (inv : b.Inv) : (accessResult a x b).Inv :=
  inv.congr (by rw [accessResult_hist]) (accessResult_aux a x b) (accessResult_keeps a x b).2.phy (by rw [accessResult_env])

theorem hostResult_inv (x : Xfer) {b : Block} (inv : b.Inv) : (hostResult x b).Inv := by
  unfold hostResult
  generalize b.port.hbuf.put x.data = buf
  exact inv.congr rfl rfl rfl rfl

/-! ### The transmitter (R100, R199, R221, R272) -/

/-- Each PHY command of the sequencer enables no lane or a whole lane count, never video, and powers no lane up. -/
theorem shadow_safe (c : PhyAct) (b : Block) (busy : Bool) {p : PhyRegs} (safe : TransmitterSafe p) :
    TransmitterSafe ((c.command b).shadow busy p) := by
  obtain ⟨mask, video, power⟩ := safe
  cases c with
  | linkRate => cases busy <;> exact ⟨mask, video, power⟩
  | xmitActive => exact ⟨.inr (.inr ⟨_, rfl⟩), video, power⟩
  | xmitOff => exact ⟨.inr (.inl rfl), video, power⟩
  | videoOff => exact ⟨mask, nofun, power⟩
  | powerDown lane =>
    refine ⟨mask, video, fun i => ?_⟩
    by_cases h : lane.val = i.val
    · simp [PhyAct.command, HwCmd.shadow, h]
    · simpa [PhyAct.command, HwCmd.shadow, Vector.getElem_set, h] using power i
  | _ => exact ⟨mask, video, power⟩

theorem logDriveSum_inv (c : PhyAct) {b : Block} (inv : b.Inv) : (logDriveSum c b).Inv := by
  cases c with
  | driveLane lane =>
    simp only [logDriveSum]
    split
    · exact inv.log rfl
    · exact inv
  | _ => exact inv

theorem hwOp_sink (c : HwCmd) (b : Block) : (hwOp c b).env.sink = b.env.sink := by rw [hwOp_env]

theorem phyAct_inv (c : PhyAct) {b : Block} (inv : b.Inv) : (phyAct c b).Inv := by
  obtain ⟨single, request, transmitter, sink, completion⟩ := logDriveSum_inv c inv
  exact {
    single := (auxTrace_quiet rfl _ _).trans single
    request := request
    transmitter := shadow_safe c b _ transmitter
    sink := by rw [SinkWf, phyAct, hwOp_sink]; exact sink
    completion := completion }

/-! ### Every step -/

theorem runUpdate_inv (u : Update) {b : Block} (inv : b.Inv) : (runUpdate u b).Inv := by
  cases u with
  | fecGiveUp => exact inv.congr (auxTrace_quiet rfl _ _) rfl rfl rfl
  | irqBegin => exact inv.congr (auxTrace_quiet rfl _ _) rfl rfl rfl
  | _ => exact inv.congr rfl rfl rfl rfl

theorem runAct_inv (a : Act) {b : Block} (inv : b.Inv) : (runAct a b).2.Inv := by
  cases a with
  | hostIssue q => exact hostIssue_inv q inv
  | hostComplete => exact auxComplete_inv (fun x _ => hostResult_inv x) inv
  | issue a => exact accessIssue_inv a inv
  | complete a => exact auxComplete_inv (fun x _ => accessResult_inv a x) inv
  | phy c => exact phyAct_inv c inv
  | delay l => exact inv.log rfl
  | upd u => exact runUpdate_inv u inv

theorem endService_inv (saved : Locals) {b : Block} (inv : b.Inv) : (endService saved b).Inv := by
  unfold endService
  split
  · exact inv.congr rfl rfl rfl rfl
  · exact inv.congr (auxTrace_quiet rfl _ _) rfl rfl rfl

theorem inv_lasting : Lasting fun b c => b.Inv → c.Inv where
  refl _ := id
  trans _ _ _ h k := k ∘ h
  act a _ _ := runAct_inv a
  mark _ _ inv := inv.congr rfl rfl rfl rfl
  returning _ _ inv := inv.congr rfl rfl rfl rfl
  raise _ _ inv := inv.congr rfl rfl rfl rfl
  draw b inv := inv.congr rfl rfl rfl (nextBoundary_sink b.env)
  request _ inv := inv.congr rfl rfl rfl rfl
  beginService _ inv := inv.congr rfl rfl rfl rfl
  endService saved _ := endService_inv saved
  cmdStart _ _ inv := inv.log rfl
  endCommand _ inv := inv.congr (auxTrace_quiet rfl _ _) rfl rfl rfl
  hcmd _ _ inv := inv.congr rfl rfl rfl rfl
  refuse _ inv := inv.congr rfl rfl rfl rfl
  writeHbuf _ _ _ inv := inv.congr rfl rfl rfl rfl

/-- Settles O53: each part of a step keeps the invariant. -/
theorem stepKeepsInv : Obligations.StepKeepsInv := fun _ _ inv h => inv_lasting.step h inv

/-- Settles O52: nothing has been issued, and every shadow is unknown. -/
theorem resetInv : Obligations.ResetInv where
  single := rfl
  request := nofun
  transmitter := ⟨.inl rfl, nofun, by decide⟩
  sink := nofun
  completion := rfl

/-! ### The stop (R255) -/

theorem first?_add_noFaults (f : Fault) : (noFaults.add f).first? = some f := by cases f <;> rfl

/-- A machine without a fault, at a position: the command or the service goes on (R6). -/
theorem step_running {s : State} (none : s.blk.faults.first? = none) (position : s.seq ≠ []) :
    step s = .next (runningStep s) := by
  obtain ⟨f, k, eq⟩ := List.exists_cons_of_ne_nil position
  simp only [step, none, eq]

/-- A host that writes while a command runs (R42, R284). -/
theorem runningStep_overlap {s : State} {a : HostAction} {rest : List HostAction} (runs : commandRuns s.seq = true)
    (host : s.host = a :: rest) (wait : a ≠ .wait) (idle : a ≠ .idle) :
    runningStep s = { s with blk := raise .commandOverlap s.blk } := by
  have write : hostWrite s = { s with blk := raise .commandOverlap s.blk } := if_pos runs
  rw [← write, runningStep, host]
  cases a with
  | wait => exact absurd rfl wait
  | idle => exact absurd rfl idle
  | _ => rfl

/-- Settles O56: the fault is answered before anything else, and an overlapping write only sets its mark. -/
theorem faultsStop : Obligations.FaultsStop := by
  refine ⟨fun s f raised => ?_, fun s a rest none runs host wait idle => ?_⟩
  · rw [step, raised, first?_add_noFaults]
  · have overlap := runningStep_overlap runs host wait idle
    have position : s.seq ≠ [] := fun eq => by simp [eq, commandRuns] at runs
    rw [step_running (by rw [none]; rfl) position, overlap]
    rfl

end Sys2Proof.Machine
end

section
/-! PROOFS. O18 and O43: what the AUX commands, the training commands and `SINK.IRQ` leave as it was (spec/10_state.md R28, R31, R44;
spec/40_aux_engine.md R146). -/

namespace Sys2Proof.Machine

open Sys2Proof

/-! ### The host's transfer (R120, R146) -/

theorem Buf.put_nil (b : Buf) : b.put [] = b := by
  ext i hi
  simp [Buf.put_get]

theorem xferResult_data_nil {q : ReqReg} (h : q.rw ≠ .read) (a : AuxAnswer) : (xferResult q a).data = [] := by
  cases a with
  | timedOut => rfl
  | reply r d =>
    cases p : acceptedPayload r q.rw q.size with
    | none => rw [xferResult_rejected p]
    | some p => simp [xferResult_accepted ‹_›, h]

theorem rwOf_read {code : BitVec 2} (h : rwOf code = some .read) : code = 0 := by
  revert code
  decide

/-- No read is in flight. -/
def NoRead (b : Block) : Prop := b.aux.fsm = .wait → b.aux.req.rw ≠ .read

/-- What a host transfer leaves as it was; and, where `w` rules a read out, the host's buffer too. -/
structure TransferKeeps (w : Prop) (a b : Block) : Prop where
  train : b.train = { a.train with micro := b.train.micro }
  store : b.store = a.store
  phy : b.phy = a.phy
  hcmd : b.port.hcmd = a.port.hcmd
  resParam : b.port.resParam = a.port.resParam
  hbufWritten : b.port.hbufWritten = a.port.hbufWritten
  hbuf : w → NoRead a → NoRead b ∧ b.port.hbuf = a.port.hbuf

section
variable {w : Prop}

theorem TransferKeeps.trans {a b c : Block} (h : TransferKeeps w a b) (k : TransferKeeps w b c) : TransferKeeps w a c where
  train := by rw [k.train, h.train]
  store := k.store.trans h.store
  phy := k.phy.trans h.phy
  hcmd := k.hcmd.trans h.hcmd
  resParam := k.resParam.trans h.resParam
  hbufWritten := k.hbufWritten.trans h.hbufWritten
  hbuf hw ha := by
    obtain ⟨hb, eq⟩ := h.hbuf hw ha
    obtain ⟨hc, eq'⟩ := k.hbuf hw hb
    exact ⟨hc, eq'.trans eq⟩

/-- Where the engine and the host's registers agree, only the micro-step may differ. -/
theorem TransferKeeps.of_eq {a b : Block} (train : b.train = { a.train with micro := b.train.micro }) (store : b.store = a.store)
    (phy : b.phy = a.phy) (port : b.port = { a.port with resStatus := b.port.resStatus, resPayload := b.port.resPayload })
    (aux : b.aux = a.aux) : TransferKeeps w a b where
  train := train
  store := store
  phy := phy
  hcmd := by rw [port]
  resParam := by rw [port]
  hbufWritten := by rw [port]
  hbuf _ ha := ⟨by rwa [NoRead, aux], by rw [port]⟩

/-- The host's issue (R120 to R127). -/
theorem hostIssue_keeps {q : Request} (read : w → q.rw ≠ 0) (b : Block) : TransferKeeps w b (hostIssue q b).2 := by
  unfold hostIssue
  split
  case h_1 => exact .of_eq rfl rfl rfl rfl rfl
  case h_2 rw valid =>
    split
    · exact .of_eq rfl rfl rfl rfl rfl
    · cases h : b.aux.fsm with
      | wait => rw [auxIssue_wait h]; exact .of_eq rfl rfl rfl rfl rfl
      | idle =>
        rw [auxIssue_idle h]
        have noRead (hw : w) : rw ≠ .read := by
          rintro rfl
          exact read hw (rwOf_read (validRw_some valid).1)
        exact ⟨rfl, rfl, rfl, rfl, rfl, rfl, fun hw _ => ⟨fun _ => noRead hw, rfl⟩⟩

/-- The host's completion (R128 to R134). -/
theorem hostComplete_keeps (b : Block) : TransferKeeps w b (hostComplete b) := by
  unfold hostComplete
  cases h : b.aux.fsm with
  | idle => rw [auxComplete_idle h]; exact .of_eq rfl rfl rfl rfl rfl
  | wait =>
    rw [auxComplete_wait h]
    exact {
      train := by simp [hostResult]
      store := by simp [hostResult]
      phy := by simp [hostResult]
      hcmd := by simp [hostResult]
      resParam := by simp [hostResult]
      hbufWritten := by simp [hostResult]
      hbuf := fun _ noRead =>
        ⟨by simp [NoRead, hostResult], by simp [hostResult, xferResult_data_nil (noRead h), Buf.put_nil]⟩ }

/-- While a transaction is in flight no service is taken, and the engine stays as it is (R262). -/
theorem boundary_aux_wait {b : Block} (h : b.aux.fsm = .wait) : (boundary b).aux = b.aux := by
  have closed : serviceAdmitted (quietBoundary b) = false := by simp [serviceAdmitted, h]
  show (serve _ (quietBoundary b)).aux = b.aux
  rw [serve_closed closed, quietBoundary_aux]

theorem boundary_transferKeeps (b : Block) : TransferKeeps w b (boundary b) where
  train := by rw [boundary_train]
  store := boundary_store b
  phy := boundary_phy b
  hcmd := by rw [(boundary_gentle.same b).port]
  resParam := by rw [(boundary_gentle.same b).port]
  hbufWritten := by rw [(boundary_gentle.same b).port]
  hbuf _ noRead := by
    refine ⟨fun wait => ?_, by rw [(boundary_gentle.same b).port]⟩
    have wait : b.aux.fsm = .wait := (boundary_gentle.fsm b).symm.trans wait
    rw [boundary_aux_wait wait]
    exact noRead wait

/-- The micro-steps of the host's transfer of `q`. -/
def Act.ofTransfer (q : Request) : Act → Bool
  | .hostIssue r => decide (r = q)
  | .hostComplete => true
  | _ => false

theorem transferKeeps_carries {q : Request} (read : w → q.rw ≠ 0) : Carries (Act.ofTransfer q) (TransferKeeps w) where
  refl _ := .of_eq rfl rfl rfl rfl rfl
  trans _ _ _ := .trans
  act a ha b := by
    cases a with
    | hostIssue r =>
      obtain rfl : r = q := of_decide_eq_true ha
      exact hostIssue_keeps read b
    | hostComplete => exact hostComplete_keeps b
    | _ => cases ha
  mark _ _ := .of_eq rfl rfl rfl rfl rfl
  returning _ _ := .of_eq rfl rfl rfl rfl rfl
  raise _ _ := .of_eq rfl rfl rfl rfl rfl

end

/-- The code of an AUX command is the host's transfer of its request (R146). -/
theorem codeOf_auxRequest {i : Instr} {q : Request} (h : auxRequestOf i = some q) : codeOf i = transferCode q := by
  cases i <;> cases h <;> rfl

/-- Settles O18: each micro-step of the transfer keeps the frame, and so do the boundaries. -/
theorem transferFrame : Obligations.TransferFrame := by
  intro i q s b request ran
  have only : (codeOf i).only (Act.ofTransfer q) = true := by
    rw [codeOf_auxRequest request]
    simp [transferCode, block, Code.only, Act.ofTransfer]
  obtain ⟨train, store, phy, hcmd, resParam, written, hbuf⟩ :=
    (transferKeeps_carries (w := q.rw ≠ 0) id).exec boundary_transferKeeps (fun _ _ => .of_eq rfl rfl rfl rfl rfl)
      (fun _ => .of_eq rfl rfl rfl rfl rfl) only ran
  refine ⟨train, store, phy, hcmd, resParam, written, fun noRead idle => (hbuf noRead fun wait => ?_).2⟩
  rw [idle] at wait
  cases wait

/-! ### The parameter store (R31, R44) -/

theorem accessIssue_accessKeeps (a : Access) (b : Block) : AccessKeeps a b (accessIssue a b).2 := by
  cases h : b.aux.fsm with
  | idle => exact (accessIssue_keeps h).2.2
  | wait => rw [accessIssue, auxIssue_wait h]; exact .of_eq rfl rfl rfl rfl

/-- The micro-steps that write no parameter and no table entry, and, unless `lock`, do not lock the configuration. -/
def Act.keepsStore (lock : Bool) : Act → Bool
  | .upd (.paramSet _ _) => false
  | .upd (.sigtabSet _ _ _ _ _ _) => false
  | .upd .initBegin => lock
  | _ => true

/-- The parameters and the table are the same, and, unless `lock`, so is the lock. -/
structure StoreKept (lock : Bool) (a b : Block) : Prop where
  defaultParam : b.store.defaultParam = a.store.defaultParam
  sigTable : b.store.sigTable = a.store.sigTable
  locked : lock = false → b.store.configLocked = a.store.configLocked

section
variable {lock : Bool}

theorem StoreKept.of_eq {a b : Block} (h : b.store = a.store) : StoreKept lock a b :=
  ⟨by rw [h], by rw [h], fun _ => by rw [h]⟩

theorem StoreKept.trans {a b c : Block} (h : StoreKept lock a b) (k : StoreKept lock b c) : StoreKept lock a c :=
  ⟨k.defaultParam.trans h.defaultParam, k.sigTable.trans h.sigTable, fun hl => (k.locked hl).trans (h.locked hl)⟩

theorem runAct_storeKept {a : Act} (h : a.keepsStore lock = true) (b : Block) : StoreKept lock b (runAct a b).2 := by
  cases a with
  | hostIssue q => exact .of_eq (hostIssue_keeps (w := False) nofun b).store
  | hostComplete => exact .of_eq (hostComplete_keeps (w := False) b).store
  | issue a => exact .of_eq (accessIssue_accessKeeps a b).store
  | complete a => exact .of_eq (accessComplete_keeps a b).2.store
  | phy c => exact .of_eq (phyAct_store c b)
  | delay l => exact .of_eq rfl
  | upd u =>
    cases u with
    | paramSet => cases h
    | sigtabSet => cases h
    | initBegin =>
      obtain rfl : lock = true := h
      exact ⟨rfl, rfl, nofun⟩
    | _ => exact .of_eq rfl

theorem storeKept_carries : Carries (Act.keepsStore lock) (StoreKept lock) where
  refl _ := .of_eq rfl
  trans _ _ _ := .trans
  act _ := runAct_storeKept
  mark _ _ := .of_eq rfl
  returning _ _ := .of_eq rfl
  raise _ _ := .of_eq rfl

end

/-- A training command or `SINK.IRQ` writes no parameter and no table entry, and only `TRAIN.INIT` and `TRAIN.START` lock the
configuration (R31, R170, R192). -/
theorem codeOf_keepsStore {i : Instr} (h : isTraining i = true ∨ i = .sinkIrq) :
    (codeOf i).only (Act.keepsStore (decide (i = .trainInit ∨ i = .trainStart))) = true := by
  cases i with
  | trainStart => rfl
  | trainInit => rfl
  | trainCr => rfl
  | trainEq => rfl
  | trainDone success => cases success <;> rfl
  | sinkIrq => rfl
  | _ => simp [isTraining] at h

theorem isTraining_of_legal {ph : Phase} : ∀ i ∈ legalTraining ph, isTraining i = true := by
  cases ph <;> decide

/-- The block a command ends with is one. -/
theorem exec_blk_unique {i : Instr} {s : State} {b c : Block} (h : exec i s = .next { s with blk := b })
    (k : exec i s = .next { s with blk := c }) : b = c := by
  rw [h] at k
  injection k with k
  injection k

/-- `SINK.IRQ` writes no training register but the micro-step, and no shadow (R240). -/
theorem sinkIrq_keeps {s : State} {b : Block} (idle : s.blk.aux.fsm = .idle) (ran : exec .sinkIrq s = .next { s with blk := b }) :
    b.train = { s.blk.train with micro := none } ∧ b.phy = s.blk.phy := by
  have triple : Triple boundary (Regs s.blk.train s.blk.phy s.blk.store) (codeOf .sinkIrq)
      (Regs s.blk.train s.blk.phy s.blk.store) (fun _ => False) (Regs s.blk.train s.blk.phy s.blk.store) :=
    parserCode_triple boundary_gentle _ _ _
  obtain ⟨c, eq, ⟨train, phy, -⟩, -, -⟩ := exec_of_triple triple idle ⟨rfl, rfl, rfl⟩
  obtain rfl := exec_blk_unique ran eq
  exact ⟨by rw [← train]; rfl, phy⟩

/-- Settles O43: these commands raise no fault, so that the host's registers stay, and none of their micro-steps writes the store. -/
theorem hostSideFrame : Obligations.HostSideFrame := by
  intro i s b legal idle ran
  obtain ⟨c, eq, -, -, steady⟩ := exec_of_triple (codeOf_triple legal) idle rfl
  obtain rfl := exec_blk_unique ran eq
  have port : c.port = s.blk.port := steady.port
  obtain ⟨defaultParam, sigTable, locked⟩ := storeKept_carries.exec (fun b => .of_eq (boundary_store b)) (fun _ _ => .of_eq rfl)
    (fun _ => .of_eq rfl) (codeOf_keepsStore (legal.imp_left (isTraining_of_legal i))) ran
  refine ⟨⟨?_, ?_, ?_, ?_, ?_, ?_, steady.faults, steady.refused⟩, defaultParam, sigTable, ?_, ?_⟩
  · rw [endCommand_hcmd, port]
  · rw [endCommand_hbuf, port]
  · rw [endCommand_hbufWritten, port]
  · rw [endCommand_resReply, port]
  · rw [endCommand_resPayload, port]
  · rw [endCommand_resParam, port]
  · exact fun init start => locked (by simp [init, start])
  · rintro rfl
    exact sinkIrq_keeps idle ran

end Sys2Proof.Machine
end

section
/-! PROOFS. O55: every command keeps the session invariants (spec/10_state.md R31, R36; spec/42_link_training.md R190, R192, R221,
R225). The one micro-step that makes a result valid is `recordResult`; before it, in every code that has it, no result is valid and
the configuration is locked. -/

namespace Sys2Proof.Machine

open Sys2Proof

/-! ### Sound and settled blocks -/

section
variable {v l : Prop}

/-- The session invariants, as far as they are asked for: `v` asks for the result's, `l` for the lock's. -/
def Sound (v l : Prop) (b : Block) : Prop := (v → ResultInv b) ∧ (l → LockInv b)

/-- Within a session: no result is valid, and the configuration is locked. -/
def Settled (v l : Prop) (b : Block) : Prop := (v → b.train.resultValid = false) ∧ (l → b.store.configLocked = true)

theorem Settled.sound {b : Block} (h : Settled v l b) : Sound v l b :=
  ⟨fun hv valid => by simp [h.1 hv] at valid, fun hl unlocked => by simp [h.2 hl] at unlocked⟩

/-- The phases within a session, in which `TRAIN.CR`, `TRAIN.EQ` and `TRAIN.DONE 1` run (R190). -/
def sessionPhases : List Phase := [.initOk, .retryPending, .crOk, .eqOk]

theorem Sound.settled {b : Block} (h : Sound v l b) (phase : b.train.phase ∈ sessionPhases) : Settled v l b := by
  refine ⟨fun hv => Bool.eq_false_iff.2 fun valid => ?_, fun hl => ?_⟩
  · simp [(h.1 hv valid).1, sessionPhases] at phase
  · cases unlocked : b.store.configLocked with
    | true => rfl
    | false =>
      obtain idle | failed := h.2 hl unlocked
      · simp [idle, sessionPhases] at phase
      · simp [failed, sessionPhases] at phase

/-- The registers that the session invariants speak of agree. -/
structure SameSession (a b : Block) : Prop where
  phase : b.train.phase = a.train.phase
  status : b.train.status = a.train.status
  resultValid : b.train.resultValid = a.train.resultValid
  result : b.train.result = a.train.result
  configLocked : b.store.configLocked = a.store.configLocked

theorem Sound.congr {a b : Block} (same : SameSession a b) (h : Sound v l a) : Sound v l b := by
  obtain ⟨phase, status, valid, result, locked⟩ := same
  unfold Sound ResultInv LockInv
  rw [phase, status, valid, result, locked]
  exact h

theorem Settled.congr {a b : Block} (same : SameSession a b) (h : Settled v l a) : Settled v l b := by
  unfold Settled
  rw [same.resultValid, same.configLocked]
  exact h

theorem boundary_sameSession (b : Block) : SameSession b (boundary b) :=
  ⟨by rw [boundary_train], by rw [boundary_train], by rw [boundary_train], by rw [boundary_train], by rw [boundary_store]⟩

theorem AccessKeeps.sameSession {a : Access} {b c : Block} (h : AccessKeeps a b c) : SameSession b c :=
  ⟨by rw [h.train], by rw [h.train], by rw [h.train], by rw [h.train], by rw [h.store]⟩

theorem TransferKeeps.sameSession {w : Prop} {b c : Block} (h : TransferKeeps w b c) : SameSession b c :=
  ⟨by rw [h.train], by rw [h.train], by rw [h.train], by rw [h.train], by rw [h.store]⟩

/-- A micro-step that is no internal update writes none of them. -/
theorem update_or_sameSession (a : Act) (b : Block) : (∃ u, a = .upd u) ∨ SameSession b (runAct a b).2 := by
  cases a with
  | hostIssue q => exact .inr (hostIssue_keeps (w := False) nofun b).sameSession
  | hostComplete => exact .inr (hostComplete_keeps (w := False) b).sameSession
  | issue a => exact .inr (accessIssue_accessKeeps a b).sameSession
  | complete a => exact .inr (accessComplete_keeps a b).2.sameSession
  | phy c => exact .inr <| by constructor <;> simp [runAct]
  | delay d => exact .inr ⟨rfl, rfl, rfl, rfl, rfl⟩
  | upd u => exact .inl ⟨u, rfl⟩

/-! ### Micro-steps -/

/-- All micro-steps but the one that records the result keep a block settled. -/
def Act.keepsSettled : Act → Bool
  | .upd .recordResult => false
  | _ => true

/-- The micro-steps that keep a block sound: they leave the session's registers, or begin or fail the session. -/
def Act.keepsSound : Act → Bool
  | .upd .seedStatus => false
  | .upd (.setPhase _) => false
  | .upd .adjust => false
  | .upd .fallback => false
  | .upd (.fecActive _) => false
  | .upd .fecGiveUp => false
  | .upd .negotiate => false
  | .upd .recordResult => false
  | _ => true

theorem fallback_resultValid (t : TrainRegs) : (fallback t).1.resultValid = t.resultValid := by
  obtain ⟨-, eq⟩ | ⟨n, -, -, eq⟩ | ⟨-, -, eq⟩ := fallback_cases t <;> rw [eq] <;> rfl

/-- The start of a session settles every block (R192). -/
theorem initBegin_settled (b : Block) : Settled v l (runUpdate .initBegin b) := ⟨fun _ => rfl, fun _ => rfl⟩

theorem runUpdate_settled {u : Update} (h : (Act.upd u).keepsSettled = true) {b : Block} (settled : Settled v l b) :
    Settled v l (runUpdate u b) := by
  cases u with
  | recordResult => cases h
  | initBegin => exact initBegin_settled b
  | failSession => exact ⟨fun _ => rfl, settled.2⟩
  | fallback => exact ⟨fun hv => (fallback_resultValid b.train).trans (settled.1 hv), settled.2⟩
  | _ => exact settled

theorem runUpdate_sound {u : Update} (h : (Act.upd u).keepsSound = true) {b : Block} (sound : Sound v l b) :
    Sound v l (runUpdate u b) := by
  cases u with
  | initBegin => exact (initBegin_settled b).sound
  | failSession => exact ⟨fun _ => nofun, fun _ _ => .inr rfl⟩
  | seedStatus => cases h
  | setPhase => cases h
  | adjust => cases h
  | fallback => cases h
  | fecActive => cases h
  | fecGiveUp => cases h
  | negotiate => cases h
  | recordResult => cases h
  | _ => exact sound

theorem settled_carries : Carries Act.keepsSettled fun a b => Settled v l a → Settled v l b where
  refl _ := id
  trans _ _ _ h k := k ∘ h
  act a ha b := by
    obtain ⟨u, rfl⟩ | same := update_or_sameSession a b
    · exact runUpdate_settled ha
    · exact .congr same
  mark _ _ := id
  returning _ _ := id
  raise _ _ := id

theorem sound_carries : Carries Act.keepsSound fun a b => Sound v l a → Sound v l b where
  refl _ := id
  trans _ _ _ h k := k ∘ h
  act a ha b := by
    obtain ⟨u, rfl⟩ | same := update_or_sameSession a b
    · exact runUpdate_sound ha
    · exact .congr same
  mark _ _ := id
  returning _ _ := id
  raise _ _ := id

theorem settled_runCode {c : Code} (only : c.only Act.keepsSettled = true) {b : Block} (h : Settled v l b) :
    Settled v l (runCode boundary c b).2 :=
  settled_carries.runCode (fun b => .congr (boundary_sameSession b)) c only b h

theorem sound_runCode {c : Code} (only : c.only Act.keepsSound = true) {b : Block} (h : Sound v l b) :
    Sound v l (runCode boundary c b).2 :=
  sound_carries.runCode (fun b => .congr (boundary_sameSession b)) c only b h

/-! ### Code that may record the result at its end -/

/-- What ended so is sound, and is still settled where the code goes on. -/
def Closes (v l : Prop) (r : Sig × Block) : Prop := Sound v l r.2 ∧ (r.1 = .norm ∨ r.1 = .brk → Settled v l r.2)

/-- From a settled block the code records a result only where it returns. -/
def Records (v l : Prop) (c : Code) : Prop := ∀ b, Settled v l b → Closes v l (runCode boundary c b)

theorem Records.of_only {c : Code} (only : c.only Act.keepsSettled = true) : Records v l c := fun _ h =>
  have settled := settled_runCode only h
  ⟨settled.sound, fun _ => settled⟩

theorem Records.cond {t : Test} {c d : Code} (hc : Records v l c) (hd : Records v l d) : Records v l (.cond t c d) := by
  intro b h
  simp only [runCode]
  split
  · exact hc b h
  · exact hd b h

theorem Records.seq {c d : Code} (hc : Records v l c) (hd : Records v l d) : Records v l (.seq c d) := by
  intro b h
  have first := hc b h
  rw [runCode_seq]
  rcases hr : runCode boundary c b with ⟨sig, b'⟩
  rw [hr] at first
  cases sig with
  | norm => exact hd b' (first.2 (.inl rfl))
  | _ => exact first

theorem Records.loop {c : Code} (hc : Records v l c) (n : Nat) : Records v l (.loop n c) := by
  intro b h
  simp only [runCode]
  induction n generalizing b with
  | zero => exact ⟨h.sound, fun _ => h⟩
  | succ n ih =>
    have first := hc b h
    simp only [iterate]
    rcases hr : runCode boundary c b with ⟨sig, b'⟩
    rw [hr] at first
    cases sig with
    | norm => exact ih b' (first.2 (.inl rfl))
    | brk => exact ⟨first.1, fun _ => first.2 (.inr rfl)⟩
    | ret => exact first
    | halt => exact first

/-- The result is recorded with the phase `DONE`, and the code returns (R225). -/
theorem recordResult_records : Records v l (block [.act (.upd .recordResult), .ret .ok]) := by
  intro b h
  have locked (hl : l) : (boundary b).store.configLocked = true := by rw [boundary_store, h.2 hl]
  exact ⟨⟨fun _ _ => ⟨rfl, rfl⟩, fun hl unlocked => absurd ((locked hl).symm.trans unlocked) (by decide)⟩, nofun⟩

theorem completedOk_records : Records v l completedOk :=
  .cond (.seq (.of_only rfl) <| .seq (.of_only rfl) <| .seq (.of_only rfl) recordResult_records) (.of_only rfl)

theorem rungCode_records : Records v l rungCode := by
  have returned {c : Code} (hc : Records v l c) : Records v l (.cond (.returned .retry) .skip c) := .cond (.of_only rfl) hc
  exact .seq (.of_only rfl) <| returned <| .seq (.of_only rfl) <| .seq (.of_only rfl) <| returned <| .seq (.of_only rfl)
    completedOk_records

/-! ### Every command -/

/-- In a phase that is admitted, the code runs on (R190). -/
theorem runCode_phaseIn {hook : Block → Block} {ps : List Phase} {c d : Code} {b : Block} (phase : b.train.phase ∈ ps) :
    runCode hook (.cond (.phaseIn ps) c d) b = runCode hook c b := by
  rw [runCode, if_pos (by simpa [evalTest] using phase)]

/-- In a phase that is not admitted the code is a fault, which changes no register (R190). -/
theorem phaseIn_sound {ps : List Phase} {c : Code} {f : Fault} {b : Block} (h : Sound v l b)
    (admitted : b.train.phase ∈ ps → Sound v l (runCode boundary (.cond (.phaseIn ps) c (.fault f)) b).2) :
    Sound v l (runCode boundary (.cond (.phaseIn ps) c (.fault f)) b).2 := by
  by_cases phase : b.train.phase ∈ ps
  · exact admitted phase
  · rw [runCode, if_neg (by simpa [evalTest] using phase)]
    exact h

/-- Initialization settles the block it starts from, whatever comes after its first micro-step (R192). -/
theorem initCode_settled {b : Block} (phase : b.train.phase ∈ startPhases) : Settled v l (runCode boundary initCode b).2 := by
  rw [initCode, runCode_phaseIn phase]
  show Settled v l (chain (runCode boundary (.act (.upd .initBegin)) b) (runCode boundary _)).2
  exact settled_runCode rfl (initBegin_settled _)

theorem runCode_call_snd (hook : Block → Block) (c : Code) (b : Block) : (runCode hook (.call c) b).2 = (runCode hook c b).2 := by
  simp only [runCode]
  rcases runCode hook c b with ⟨sig, b'⟩
  cases sig <;> rfl

theorem startCode_sound {b : Block} (h : Sound v l b) : Sound v l (runCode boundary startCode b).2 := by
  refine phaseIn_sound h fun phase => ?_
  have init : Settled v l (runCode boundary (.call initCode) b).2 := by
    rw [runCode_call_snd]
    exact initCode_settled phase
  have rest : Records v l (block [.cond (.returned .ok) .skip completedFail, .loop Config.maxRungs rungCode, completedFail]) :=
    .seq (.of_only rfl) <| .seq (rungCode_records.loop _) (.of_only rfl)
  rw [runCode_phaseIn phase]
  show Sound v l (chain (runCode boundary (.call initCode) b) (runCode boundary _)).2
  rcases hr : runCode boundary (.call initCode) b with ⟨sig, c⟩
  rw [hr] at init
  cases sig with
  | norm => exact (rest c init).1
  | _ => exact init.sound

/-- The code of every command keeps a block sound. -/
theorem codeOf_sound (i : Instr) {b : Block} (h : Sound v l b) : Sound v l (runCode boundary (codeOf i) b).2 := by
  have session {ps : List Phase} (within : ∀ ph ∈ ps, ph ∈ sessionPhases) (phase : b.train.phase ∈ ps) : Settled v l b :=
    h.settled (within _ phase)
  cases i with
  | trainStart => exact startCode_sound h
  | trainInit => exact phaseIn_sound h fun phase => (initCode_settled phase).sound
  | trainCr => exact phaseIn_sound h fun phase => (settled_runCode rfl (session (by decide) phase)).sound
  | trainEq => exact phaseIn_sound h fun phase => (settled_runCode rfl (session (by decide) phase)).sound
  | trainDone success =>
    cases success with
    | false => exact sound_runCode (c := completedFail) rfl h
    | true => exact phaseIn_sound h fun phase => (completedOk_records b (session (by decide) phase)).1
  | _ => exact sound_runCode rfl h

end

/-- Settles O55: a block that is sound for the start's invariants stays so. -/
theorem commandKeepsSession : Obligations.CommandKeepsSession := by
  intro i s t ran
  have start : Sound (ResultInv s.blk) (LockInv s.blk) (log (.cmdStart (opcodeOf i)) s.blk) := ⟨id, id⟩
  have code := codeOf_sound i start
  obtain eq | eq := exec_left ran
  · rwa [← eq] at code
  · have ended : Sound (ResultInv s.blk) (LockInv s.blk) (endCommand _) := code
    rwa [← eq] at ended

end Sys2Proof.Machine
end

section
/-! PROOFS. O59 and O60: what the host's transfers do to the reference sink's bytes (spec/20_memory.md R56, R64, R72). -/

namespace Sys2Proof.Machine

open Sys2Proof

theorem Buf.first_length (b : Buf) {size : Byte} (h : size ≤ 16#8) : (b.first size.toNat).length = size.toNat := by
  have : size.toNat ≤ 16 := h
  simp [Buf.first, this]

/-! ### A burst written at the sink (R56, R64, R72) -/

/-- What the address `a` holds after the byte `v` is written there: the write-1-to-clear byte keeps the bits not sent (R64). -/
def storedByte (m : List Host.Cell) (a : Nat) (v : Byte) : Byte := if a = 0x201 then memRead m 0x201 &&& ~~~v else v

theorem memRead_sinkPut_same {m : List Host.Cell} {a : Nat} {v : Byte} (hm : memWf m = true) :
    memRead (sinkPut m a v) a = storedByte m a v := by
  unfold sinkPut storedByte
  split
  · rename_i clears
    rw [memRead_memWrite_same hm, clears]
  · exact memRead_memWrite_same hm

theorem memRead_sinkPut_other {m : List Host.Cell} {a c : Nat} {v : Byte} (h : c ≠ a) :
    memRead (sinkPut m a v) c = memRead m c := by
  unfold sinkPut
  split <;> exact memRead_memWrite_other h

/-- Outside the burst nothing is stored. -/
theorem memRead_sinkWrite_outside {m : List Host.Cell} {addr a : Nat} {vs : List Byte} (i : Nat)
    (h : ∀ j < vs.length, a ≠ sinkAddr addr (i + j)) : memRead (sinkWrite m addr i vs) a = memRead m a := by
  induction vs generalizing m i with
  | nil => rfl
  | cons v vs ih =>
    have tail : ∀ j < vs.length, a ≠ sinkAddr addr (i + 1 + j) := fun j hj => by
      have := h (j + 1) (Nat.succ_lt_succ hj)
      rwa [Nat.add_assoc, Nat.add_comm 1]
    rw [sinkWrite, ih (i + 1) tail]
    exact memRead_sinkPut_other (h 0 (Nat.succ_pos _))

/-- The addresses of a burst no longer than the space are distinct. -/
theorem sinkAddr_ne {addr i j : Nat} (hij : i < j) (hj : j < i + 2 ^ 20) : sinkAddr addr i ≠ sinkAddr addr j := by
  unfold sinkAddr
  omega

/-- Inside the burst each address holds what its byte stores there. -/
theorem memRead_sinkWrite_inside {m : List Host.Cell} {addr : Nat} {vs : List Byte} (i : Nat) (hm : memWf m = true)
    (len : vs.length ≤ 2 ^ 20) {j : Nat} {v : Byte} (byte : vs[j]? = some v) :
    memRead (sinkWrite m addr i vs) (sinkAddr addr (i + j)) = storedByte m (sinkAddr addr (i + j)) v := by
  induction vs generalizing m i j with
  | nil => cases byte
  | cons w vs ih =>
    rw [List.length_cons] at len
    rw [sinkWrite]
    cases j with
    | zero =>
      obtain rfl : w = v := by simpa using byte
      rw [memRead_sinkWrite_outside (i + 1) fun j hj => sinkAddr_ne (by omega) (by omega)]
      exact memRead_sinkPut_same hm
    | succ j =>
      have byte : vs[j]? = some v := by simpa using byte
      obtain ⟨hj, -⟩ := List.getElem?_eq_some_iff.1 byte
      have ne : sinkAddr addr i ≠ sinkAddr addr (i + 1 + j) := sinkAddr_ne (by omega) (by omega)
      have later := ih (i + 1) (memWf_sinkPut (v := w) hm (sinkAddr_lt addr i)) (by omega) byte
      rw [← Nat.add_assoc, Nat.add_right_comm, later]
      unfold storedByte
      split
      · rename_i clears
        rw [memRead_sinkPut_other (by omega)]
      · rfl

/-! ### The sink after a request (R72) -/

/-- The address of a formatted request is the request's (R83, R126). -/
theorem reqAddr_format (q : Request) (rw : Rw) : reqAddr (format q rw) = q.addr.toNat := by
  have field : (format q rw).word.extractLsb' 8 20 = q.addr := by
    ext i hi
    rw [BitVec.getElem_extractLsb', format, BitVec.getLsbD_append, if_neg (by omega), Nat.add_sub_cancel_left,
      BitVec.getLsbD_append, if_pos hi, BitVec.getLsbD_eq_getElem hi]
  rw [reqAddr, field]

/-- With nothing scripted, only a native write changes the sink. -/
theorem sinkAfter_unwritten {k : RefSink} {q : ReqReg} (status : k.status = []) (fec : k.fec = [])
    (h : q.isI2c = true ∨ q.rw = .read) (w : Buf) (n : Nat) : sinkAfter k q w n = k := by
  have script (a : Nat) : sinkScript k a = k := by simp [sinkScript, status, fec]
  obtain i2c | read := h
  · simp [sinkAfter, i2c]
  · simp [sinkAfter, read, script]

/-- A native write of at most 16 bytes whose bytes all reach the sink stores the buffer's first bytes. -/
theorem sinkAfter_nativeWrite {q : Request} (native : q.isI2c = false) (size : q.size ≤ 16#8) (k : RefSink) (w buf : Buf) :
    sinkAfter k (format q .write) (w.put (sentBytes .write q.size buf)) q.size.toNat =
      { k with mem := sinkWrite k.mem q.addr.toNat 0 (buf.first q.size.toNat) } := by
  have len : (buf.first q.size.toNat).length = q.size.toNat := Buf.first_length buf size
  have sent : (w.put (buf.first q.size.toNat)).first q.size.toNat = buf.first q.size.toNat := by
    have put := Buf.first_put w (buf.first q.size.toNat) (len.trans_le size)
    rwa [len] at put
  rw [sinkAfter, reqAddr_format, sentBytes, if_pos rfl]
  simp only [format, native, Bool.false_eq_true, if_false, sent, List.take_of_length_le len.le]

/-- The sink acknowledges a native read or write whole (R72, R131). -/
theorem xferResult_sinkAnswer {q : Request} {rw : Rw} (native : q.isI2c = false) (notWsu : rw ≠ .wsu) (k : RefSink)
    (w stale : Buf) : xferResult (format q rw) (sinkAnswer k (format q rw) w stale).1 =
      { status := .ok
        reply := ack
        payload := q.size
        data :=
          if rw = .read then
            (sinkRead (sinkAfter k (format q rw) w q.size.toNat).mem q.addr.toNat q.size.toNat stale).first q.size.toNat
          else [] } := by
  have i2c : (format q rw).isI2c = false := native
  cases rw with
  | wsu => exact absurd rfl notWsu
  | read =>
    have payload : acceptedPayload (sinkReply 0#4 (q.size + 1)) .read q.size = some q.size :=
      (acceptedPayload_iff _ _ _ _).2 ⟨rfl, rfl, by simp [classify, sinkReply, ack], BitVec.le_refl _⟩
    simp only [sinkAnswer, i2c, Bool.false_eq_true, if_false, reqAddr_format]
    exact xferResult_accepted (q := format q .read) payload
  | write =>
    have payload : acceptedPayload (sinkReply 0#4 1) .write q.size = some q.size :=
      (acceptedPayload_iff _ _ _ _).2 ⟨rfl, rfl, by simp [classify, sinkReply, ack], BitVec.le_refl _⟩
    simp only [sinkAnswer, i2c, Bool.false_eq_true, if_false]
    exact xferResult_accepted (q := format q .write) payload

/-- Where no answer is fixed, the sink answers (R7, R72). -/
theorem nextAux_sink {e : Env} {k : RefSink} (aux : e.aux = []) (sink : e.sink = some k) (q : ReqReg) (w : Buf) :
    e.nextAux q w =
      ((sinkAnswer k q w (Config.uncarriedData e.auxCount)).1,
        { e with auxCount := e.auxCount + 1, sink := some (sinkAfter k q w q.size.toNat) }) := by
  simp only [Env.nextAux, aux, sink]
  rfl

/-! ### The host's transfer (R120, R146) -/

/-- The host's transfer of `q` issues in the direction `rw`: it passes validation, and a write's bytes have been written (R121 to
R127). -/
def Issues (q : Request) (rw : Rw) (p : HostRegs) : Prop :=
  validRw q = some rw ∧ (rw = .write → hbufReady p q.size.toNat = true)

theorem hostIssue_issues {q : Request} {rw : Rw} {b : Block} (h : Issues q rw b.port) :
    hostIssue q b = auxIssue q rw b.port.hbuf b := by
  obtain ⟨valid, ready⟩ := h
  cases rw with
  | write => simp [hostIssue, valid, ready rfl]
  | _ => simp [hostIssue, valid]

/-- Where it does not issue, the transfer ends with the environment as it was. -/
theorem hostIssue_refused {q : Request} {b : Block} (h : ∀ rw, ¬ Issues q rw b.port) :
    (hostIssue q b).1 ≠ .norm ∧ (hostIssue q b).2.env = b.env := by
  unfold hostIssue
  split
  · exact ⟨nofun, rfl⟩
  · rename_i rw valid
    split
    · exact ⟨nofun, rfl⟩
    · rename_i ready
      exact absurd ⟨valid, fun write => by simpa [write] using ready⟩ (h rw)

/-- The block after the issue of the host's transfer. -/
def hostIssued (q : Request) (rw : Rw) (b : Block) : Block := (auxIssue q rw b.port.hbuf (log (.cmdStart 0x01) b)).2

/-- `WDATA` after the issue (R127). -/
def sentData (q : Request) (rw : Rw) (b : Block) : Buf := b.aux.wdata.put (sentBytes rw q.size b.port.hbuf)

/-- The agent's answer to the issued request, and the environment after it (R128). -/
def hostAnswer (q : Request) (rw : Rw) (b : Block) : AuxAnswer × Env := b.env.nextAux (format q rw) (sentData q rw b)

/-- The block after a whole transfer that issues, where no service comes between. -/
def transferred (q : Request) (rw : Rw) (b : Block) : Block :=
  let c := hostComplete (hostIssued q rw b)
  endCommand (returning c.loc.st c).2

section
variable {q : Request} {rw : Rw} {b : Block} (idle : b.aux.fsm = .idle)
include idle

theorem hostIssued_norm : auxIssue q rw b.port.hbuf (log (.cmdStart 0x01) b) = (.norm, hostIssued q rw b) := by
  rw [hostIssued, auxIssue_idle (b := log _ b) idle]

theorem hostIssued_fsm : (hostIssued q rw b).aux.fsm = .wait := by rw [hostIssued, auxIssue_idle (b := log _ b) idle]; rfl
theorem hostIssued_req : (hostIssued q rw b).aux.req = format q rw := by rw [hostIssued, auxIssue_idle (b := log _ b) idle]; rfl
theorem hostIssued_wdata : (hostIssued q rw b).aux.wdata = sentData q rw b := by
  rw [hostIssued, auxIssue_idle (b := log _ b) idle]; rfl
theorem hostIssued_svc : (hostIssued q rw b).svc = b.svc := by rw [hostIssued, auxIssue_idle (b := log _ b) idle]; rfl
theorem hostIssued_env : (hostIssued q rw b).env = b.env := by rw [hostIssued, auxIssue_idle (b := log _ b) idle]; rfl
theorem hostIssued_port : (hostIssued q rw b).port = b.port := by rw [hostIssued, auxIssue_idle (b := log _ b) idle]; rfl

/-- The completion takes the answer, and hands its result to the host (R128 to R134). -/
theorem hostComplete_hostIssued :
    hostComplete (hostIssued q rw b) =
      hostResult (xferResult (format q rw) (hostAnswer q rw b).1)
        (logXfer (xferResult (format q rw) (hostAnswer q rw b).1)
          (takeAnswer (hostAnswer q rw b).1 { hostIssued q rw b with env := (hostAnswer q rw b).2 })) := by
  rw [hostComplete, auxComplete_wait (hostIssued_fsm idle), hostIssued_req idle, hostIssued_wdata idle, hostIssued_env idle]
  rfl

theorem transferred_fsm : (transferred q rw b).aux.fsm = .idle := by
  simp [transferred, hostComplete_hostIssued idle, hostResult]

theorem transferred_svc : (transferred q rw b).svc = b.svc := by
  simp [transferred, hostComplete_hostIssued idle, hostResult, hostIssued_svc idle]

theorem transferred_env : (transferred q rw b).env = (hostAnswer q rw b).2 := by
  simp [transferred, hostComplete_hostIssued idle, hostResult]

theorem transferred_resStatus :
    (transferred q rw b).port.resStatus = (xferResult (format q rw) (hostAnswer q rw b).1).status.code := by
  simp [transferred, hostComplete_hostIssued idle, hostResult]

theorem transferred_resPayload :
    (transferred q rw b).port.resPayload = (xferResult (format q rw) (hostAnswer q rw b).1).payload := by
  simp [transferred, hostComplete_hostIssued idle, hostResult]

theorem transferred_hbuf :
    (transferred q rw b).port.hbuf = b.port.hbuf.put (xferResult (format q rw) (hostAnswer q rw b).1).data := by
  simp [transferred, hostComplete_hostIssued idle, hostResult, hostIssued_port idle]

end

theorem opcodeOf_auxRequest {i : Instr} {q : Request} (h : auxRequestOf i = some q) : opcodeOf i = 0x01 := by
  cases i <;> cases h <;> rfl

/-- What follows a piece of code that did not run on is left out. -/
theorem chain_ended {r : Sig × Block} (h : r.1 ≠ .norm) (g : Block → Sig × Block) : chain r g = r := by
  obtain ⟨sig, b⟩ := r
  cases sig with
  | norm => exact absurd rfl h
  | _ => rfl

section
variable {i : Instr} {q : Request} {rw : Rw} {s : State} (request : auxRequestOf i = some q)
include request

/-- A transfer that issues, with no service between, runs to its end. -/
theorem exec_transferred (idle : s.blk.aux.fsm = .idle) (quiet : Quiet s.blk) (issues : Issues q rw s.blk.port) :
    exec i s = .next { s with blk := transferred q rw s.blk } := by
  have issue : hostIssue q (log (.cmdStart 0x01) s.blk) = (.norm, hostIssued q rw s.blk) := by
    rw [hostIssue_issues (b := log _ s.blk) issues]
    exact hostIssued_norm idle
  have quiet' : Quiet (hostIssued q rw s.blk) := by
    rwa [Quiet, hostIssued_svc idle, hostIssued_env idle]
  rw [exec_eq, codeOf_auxRequest request, opcodeOf_auxRequest request]
  simp only [runCommand, transferCode, block, runCode, runAct, issue, boundary_quiet quiet', returning, transferred]

/-- A transfer that does not issue leaves the environment as it was. -/
theorem exec_refused_env {b : Block} (refused : ∀ rw, ¬ Issues q rw s.blk.port) (ran : exec i s = .next { s with blk := b }) :
    b.env = s.blk.env := by
  obtain ⟨ends, env⟩ := hostIssue_refused (b := log (.cmdStart (opcodeOf i)) s.blk) refused
  have code : (runCode boundary (codeOf i) (log (.cmdStart (opcodeOf i)) s.blk)).2.env = s.blk.env := by
    rw [codeOf_auxRequest request]
    show (chain (hostIssue q _) _).2.env = _
    rw [chain_ended ends]
    exact env
  obtain eq | eq := exec_left ran
  · exact (congrArg Block.env eq).trans code
  · exact (congrArg Block.env eq).trans code

end

/-! ### Native requests at the sink -/

/-- A native request of 1 to 16 bytes, a read or a write, passes validation (R121 to R125). -/
theorem validRw_native {q : Request} {rw : Rw} (native : q.isI2c = false) (mot : q.isMot = false) (code : rwOf q.rw = some rw)
    (notWsu : rw ≠ .wsu) (low : 1#8 ≤ q.size) (high : q.size ≤ 16#8) : validRw q = some rw := by
  have nonzero : q.size ≠ 0#8 := by
    intro zero
    rw [zero] at low
    exact absurd low (by decide)
  simp [validRw, code, native, mot, notWsu, nonzero, Config.auxMaxSize, BitVec.not_lt.2 high]

/-- The accepted native writes (R147). -/
theorem acceptedShape_nativeWrite {q : Request} (native : q.isI2c = false) (write : q.rw = 1) (h : acceptedShape q = true) :
    q.isMot = false ∧ 1#8 ≤ q.size ∧ q.size ≤ 16#8 := by
  cases mot : q.isMot with
  | false => simpa [acceptedShape, native, mot, write] using h
  | true => simp [acceptedShape, native, mot, write] at h

/-- The host has written every byte that a write sends (R127). -/
theorem hbufReady_of_written {p : HostRegs} {n : Nat} (h : ∀ j : Fin 16, j.val < n → p.hbufWritten[j] = true) :
    hbufReady p n = true := by
  simp only [hbufReady, List.all_eq_true, id]
  intro x hx
  obtain ⟨j, hj, rfl⟩ := List.getElem_of_mem hx
  simp only [List.length_take, Vector.length_toList, lt_min_iff] at hj
  simpa using h ⟨j, hj.2⟩ hj.1

theorem rwOf_write {code : BitVec 2} (h : rwOf code = some .write) : code = 1 := by
  revert code
  decide

/-- A valid request is a native write, an i2c request or a native read. -/
theorem validRw_cases {q : Request} {rw : Rw} (valid : validRw q = some rw) :
    (q.isI2c = false ∧ q.rw = 1 ∧ rw = .write) ∨ q.isI2c = true ∨ rw = .read := by
  obtain ⟨code, -, shape⟩ := validRw_some valid
  cases native : q.isI2c with
  | true => exact .inr (.inl rfl)
  | false =>
    cases rw with
    | read => exact .inr (.inr rfl)
    | write => exact .inl ⟨rfl, rwOf_write code, rfl⟩
    | wsu => exact absurd rfl (shape native).2.2

/-- The answer where none is fixed (R72). -/
theorem hostAnswer_sink {q : Request} {rw : Rw} {b : Block} {k : RefSink} (aux : b.env.aux = []) (sink : b.env.sink = some k) :
    hostAnswer q rw b =
      ((sinkAnswer k (format q rw) (sentData q rw b) (Config.uncarriedData b.env.auxCount)).1,
        { b.env with auxCount := b.env.auxCount + 1
                     sink := some (sinkAfter k (format q rw) (sentData q rw b) q.size.toNat) }) :=
  nextAux_sink aux sink _ _

/-- A byte of a burst written from the host's buffer. -/
theorem memRead_hostWrite {m : List Host.Cell} {addr : Nat} {size : Byte} {buf : Buf} (hm : memWf m = true) (high : size ≤ 16#8)
    {j : Fin 16} (hj : j.val < size.toNat) :
    memRead (sinkWrite m addr 0 (buf.first size.toNat)) (sinkAddr addr j.val) = storedByte m (sinkAddr addr j.val) buf[j] := by
  have len : (buf.first size.toNat).length ≤ 2 ^ 20 := by
    have : size.toNat ≤ 16 := high
    rw [Buf.first_length buf high]
    omega
  simpa using memRead_sinkWrite_inside 0 hm len (Buf.first_get? buf hj j.isLt)

/-- Settles O60: a transfer that does not issue leaves the sink, one that is no native write reads it, and a native write stores its
burst. -/
theorem sinkFrame : Obligations.SinkFrame := by
  intro i q s k b request idle quiet aux sink status fec ran
  by_cases issues : ∃ rw, Issues q rw s.blk.port
  · obtain ⟨rw, issues⟩ := issues
    obtain rfl := exec_blk_unique ran (exec_transferred request idle quiet issues)
    refine ⟨sinkAfter k (format q rw) (sentData q rw s.blk) q.size.toNat, ?_, ?_⟩
    · rw [transferred_env idle, hostAnswer_sink aux sink]
    obtain ⟨native, write, rfl⟩ | other := validRw_cases issues.1
    · have high : q.size ≤ 16#8 := (validRw_some issues.1).2.1
      rw [sentData, sinkAfter_nativeWrite native high]
      refine ⟨fun a outside => ?_, fun _ _ _ wf _ j hj => memRead_hostWrite wf high hj⟩
      refine memRead_sinkWrite_outside 0 fun j hj => ?_
      rw [Buf.first_length _ high] at hj
      simpa [sinkAddr] using outside native write j hj
    · rw [sinkAfter_unwritten (q := format q rw) status fec other]
      refine ⟨fun _ _ => rfl, fun native write => ?_⟩
      obtain i2c | read := other
      · rw [native] at i2c
        cases i2c
      · have code := (validRw_some issues.1).1
        rw [read, write] at code
        cases code
  · have env := exec_refused_env request (not_exists.1 issues) ran
    refine ⟨k, env ▸ sink, fun _ _ => rfl, fun native write shape _ written => ?_⟩
    obtain ⟨mot, low, high⟩ := acceptedShape_nativeWrite native write shape
    exact absurd ⟨.write, validRw_native native mot (by rw [write]; rfl) nofun low high, fun _ => hbufReady_of_written written⟩
      issues

/-- What a native read or write of 1 to 16 bytes at the sink leaves for the next transfer, and what it hands to the host. -/
structure AtSink (q : Request) (rw : Rw) (k : RefSink) (b c : Block) : Prop where
  fsm : c.aux.fsm = .idle
  quiet : Quiet c
  aux : c.env.aux = []
  sink : c.env.sink = some (sinkAfter k (format q rw) (sentData q rw b) q.size.toNat)
  resStatus : c.port.resStatus = 0
  resPayload : c.port.resPayload = q.size
  hbuf : rw = .read → ∀ j : Fin 16, j.val < q.size.toNat →
    c.port.hbuf[j] = memRead (sinkAfter k (format q rw) (sentData q rw b) q.size.toNat).mem (sinkAddr q.addr.toNat j.val)

/-- With nothing scripted, a read gives what the sink held. -/
theorem AtSink.hbuf_unscripted {q : Request} {k : RefSink} {b c : Block} (h : AtSink q .read k b c) (status : k.status = [])
    (fec : k.fec = []) {j : Fin 16} (hj : j.val < q.size.toNat) : c.port.hbuf[j] = memRead k.mem (sinkAddr q.addr.toNat j.val) := by
  rw [h.hbuf rfl j hj, sinkAfter_unwritten status fec (.inr rfl)]

/-- A native read or write of 1 to 16 bytes runs to its end at the sink, where a write's bytes have been written. -/
theorem exec_atSink {i : Instr} {q : Request} {rw : Rw} {s : State} {k : RefSink} (request : auxRequestOf i = some q)
    (idle : s.blk.aux.fsm = .idle) (quiet : Quiet s.blk) (aux : s.blk.env.aux = []) (sink : s.blk.env.sink = some k)
    (native : q.isI2c = false) (notWsu : rw ≠ .wsu) (issues : Issues q rw s.blk.port) :
    ∃ c, exec i s = .next { s with blk := c } ∧ AtSink q rw k s.blk c := by
  refine ⟨_, exec_transferred request idle quiet issues, ?_⟩
  exact {
    fsm := transferred_fsm idle
    quiet := by simpa [Quiet, transferred_svc idle, transferred_env idle, hostAnswer_sink aux sink] using quiet
    aux := by rw [transferred_env idle, hostAnswer_sink aux sink]; exact aux
    sink := by rw [transferred_env idle, hostAnswer_sink aux sink]
    resStatus := by rw [transferred_resStatus idle, hostAnswer_sink aux sink, xferResult_sinkAnswer native notWsu]; rfl
    resPayload := by rw [transferred_resPayload idle, hostAnswer_sink aux sink, xferResult_sinkAnswer native notWsu]
    hbuf := by
      rintro rfl j hj
      rw [transferred_hbuf idle, hostAnswer_sink aux sink, xferResult_sinkAnswer native notWsu]
      exact (Buf.put_first_get _ _ hj j.isLt).trans (sinkRead_get hj) }

/-- Settles O59: the write stores the burst, and the read, which changes nothing, gives it back. -/
theorem sinkRoundTrip : Obligations.SinkRoundTrip := by
  intro addr size s k low high idle quiet aux sink wf status fec clear written
  obtain ⟨b, ran, stored⟩ := exec_atSink (i := .auxNw addr size) (rw := .write) rfl idle quiet aux sink rfl nofun
    ⟨validRw_native rfl rfl rfl nofun low high, fun _ => hbufReady_of_written written⟩
  refine ⟨b, ran, stored.resStatus, stored.resPayload, fun port => ?_⟩
  have sink' := stored.sink
  rw [sentData, sinkAfter_nativeWrite rfl high] at sink'
  obtain ⟨c, ran', got⟩ := exec_atSink (i := .auxNr addr size) (rw := .read) (s := { s with blk := { b with port := port } })
    rfl stored.fsm stored.quiet stored.aux sink' rfl nofun ⟨validRw_native rfl rfl rfl nofun low high, nofun⟩
  refine ⟨c, ran', got.resStatus, got.resPayload, fun j hj => ?_⟩
  calc c.port.hbuf[j]
      = memRead (sinkWrite k.mem addr.toNat 0 (s.blk.port.hbuf.first size.toNat)) (sinkAddr addr.toNat j.val) :=
        got.hbuf_unscripted status fec hj
    _ = storedByte k.mem (sinkAddr addr.toNat j.val) s.blk.port.hbuf[j] := memRead_hostWrite wf high hj
    _ = s.blk.port.hbuf[j] := if_neg (clear j hj)

end Sys2Proof.Machine
end

section
/-! PROOFS. O1, O2, O4, O5 and O6: the two command formats (spec/30_encoding.md R80 to R98, R107). -/

namespace Sys2Proof.Machine

open Sys2Proof

/-! ### AUX request words (R81 to R84, R87) -/

/-- The AUX kind of the row of R81 with this `CMD`; none where `CMD` is reserved (R87). -/
def kindOf (cmd : BitVec 4) : Option (BitVec 20 → Byte → Instr) :=
  match cmd with
  | 0x0#4 => some .auxI2cw
  | 0x1#4 => some .auxI2cr
  | 0x2#4 => some .auxI2cwsu
  | 0x4#4 => some .auxI2cwMot
  | 0x5#4 => some .auxI2crMot
  | 0x6#4 => some .auxI2cwsuMot
  | 0x8#4 => some .auxNw
  | 0x9#4 => some .auxNr
  | _ => none

/-- A request word decodes to the kind of its `CMD`, at its address, with the size that `LEN` and the flag stand for. -/
theorem decodeReq_ok_iff (w : BitVec 32) (addrOnly : Bool) (i : Instr) :
    decodeReq w addrOnly = .ok i ↔ ∃ size kind, decodeSize (w.extractLsb' 0 8) addrOnly = .ok size ∧
      kindOf (w.extractLsb' 28 4) = some kind ∧ i = kind (w.extractLsb' 8 20) size := by
  unfold decodeReq
  dsimp only
  cases decodeSize (w.extractLsb' 0 8) addrOnly with
  | error e => simp
  | ok size =>
    generalize (w.extractLsb' 28 4 : BitVec 4) = cmd
    unfold kindOf
    dsimp only
    split <;> simp [eq_comm]

/-- A kind is encoded with the `CMD` of its row. -/
theorem encode_kindOf {cmd : BitVec 4} {kind : BitVec 20 → Byte → Instr} (h : kindOf cmd = some kind) (addr : BitVec 20)
    (size : Byte) : encode (kind addr size) = encodeReq cmd addr size ∧ WellFormed (kind addr size) = sizeEncodable size := by
  unfold kindOf at h
  split at h <;> cases h <;> exact ⟨rfl, rfl⟩

theorem lenOf_of_ne {size : Byte} (h : size ≠ 0) : lenOf size = size - 1 := if_neg h

/-- The formatter and the table form one word (R83, R84, R126). -/
theorem encodeReq_eq (cmd : BitVec 4) (addr : BitVec 20) (size : Byte) :
    encodeReq cmd addr size = .req (cmd ++ addr ++ lenOf size) (size == 0) := by
  by_cases h : size = 0
  · rw [h]; rfl
  · rw [encodeReq, if_neg h, lenOf_of_ne h, beq_false_of_ne h]

section
variable (cmd : BitVec 4) (addr : BitVec 20) (len : Byte)

theorem requestWord_cmd : (cmd ++ addr ++ len).extractLsb' 28 4 = cmd := by
  simp (disch := decide) only [BitVec.extractLsb'_append_eq_of_le, Nat.reduceSub, BitVec.extractLsb'_eq_self]

theorem requestWord_addr : (cmd ++ addr ++ len).extractLsb' 8 20 = addr := by
  simp (disch := decide) only [BitVec.extractLsb'_append_eq_of_le, Nat.reduceSub, BitVec.extractLsb'_append_eq_right]

theorem requestWord_len : (cmd ++ addr ++ len).extractLsb' 0 8 = len := BitVec.extractLsb'_append_eq_right

end

theorem requestWord_fields (w : BitVec 32) : w.extractLsb' 28 4 ++ w.extractLsb' 8 20 ++ w.extractLsb' 0 8 = w := by
  simp (disch := decide) only [BitVec.extractLsb'_append_extractLsb'_eq_extractLsb']
  exact BitVec.extractLsb'_eq_self

theorem highNibble_eq_zero_iff (len : Byte) : len.extractLsb' 4 4 = 0#4 ↔ len.toNat < 16 := by
  have value : (len.extractLsb' 4 4).toNat = len.toNat / 16 := by
    rw [BitVec.extractLsb'_toNat, Nat.shiftRight_eq_div_pow, Nat.mod_eq_of_lt (by omega)]
  rw [← BitVec.toNat_inj, value]
  simp

/-- `LEN` and the flag stand for at most one size, and that is at most 16 (R83, R84). -/
theorem decodeSize_ok_iff (len : Byte) (addrOnly : Bool) (size : Byte) :
    decodeSize len addrOnly = .ok size ↔ size ≤ 16#8 ∧ len = lenOf size ∧ addrOnly = (size == 0) := by
  by_cases hs : size = 0#8
  · subst hs
    cases addrOnly with
    | true => simp [decodeSize, lenOf]
    | false => by_cases hl : len.toNat < 16 <;> simp [decodeSize, highNibble_eq_zero_iff, hl]; bv_omega
  · cases addrOnly with
    | true => by_cases hl : len = 0#8 <;> simp [decodeSize, hl, hs, Ne.symm hs]
    | false =>
      by_cases hl : len.toNat < 16 <;> simp [decodeSize, highNibble_eq_zero_iff, hl, lenOf_of_ne hs] <;> bv_omega

/-- A request word's one spelling (R81, R83, R84). -/
theorem encode_of_decodeReq {w : BitVec 32} {addrOnly : Bool} {i : Instr} (h : decodeReq w addrOnly = .ok i) :
    encode i = .req w addrOnly ∧ WellFormed i = true := by
  obtain ⟨size, kind, len, cmd, rfl⟩ := (decodeReq_ok_iff _ _ _).1 h
  obtain ⟨high, len, flag⟩ := (decodeSize_ok_iff _ _ _).1 len
  obtain ⟨word, wf⟩ := encode_kindOf cmd (w.extractLsb' 8 20) size
  exact ⟨by rw [word, encodeReq_eq, ← len, ← flag, requestWord_fields], wf.trans (decide_eq_true high)⟩

theorem decode_encode_kindOf {cmd : BitVec 4} {kind : BitVec 20 → Byte → Instr} (h : kindOf cmd = some kind) {addr : BitVec 20}
    {size : Byte} (wf : sizeEncodable size = true) : decode (encode (kind addr size)) = .ok (kind addr size) := by
  rw [(encode_kindOf h addr size).1, encodeReq_eq]
  refine (decodeReq_ok_iff _ _ _).2 ⟨size, kind, ?_, ?_, ?_⟩
  · exact (decodeSize_ok_iff _ _ _).2 ⟨of_decide_eq_true wf, requestWord_len _ _ _, rfl⟩
  · rw [requestWord_cmd, h]
  · rw [requestWord_addr]

/-! ### Host command words (R92 to R98) -/

theorem ifZero_ok_iff {n : Nat} (mbz : BitVec n) (i j : Instr) : ifZero mbz i = .ok j ↔ mbz = 0#n ∧ i = j := by
  by_cases h : mbz = 0#n <;> simp [ifZero, h]

theorem hostOpc_append (operands : BitVec 56) (opc : Byte) : hostOpc (operands ++ opc) = opc := BitVec.extractLsb'_append_eq_right

theorem bit_getLsbD {n : Nat} (w : BitVec n) (k : Nat) : bit (w.getLsbD k) = w.extractLsb' k 1 := by
  ext j hj
  obtain rfl : j = 0 := by omega
  cases h : w.getLsbD k <;> simp [bit, h]

theorem getLsbD_append_bit {m n : Nat} (high : BitVec m) (v : Bool) (low : BitVec n) : (high ++ bit v ++ low).getLsbD n = v := by
  rw [BitVec.getLsbD_append, if_neg (by omega), BitVec.getLsbD_append, if_pos (by omega), Nat.sub_self]
  cases v <;> rfl

/-- A host command word's one spelling: its fields are its operands, its opcode and its must-be-zero bits (R92 to R98). -/
theorem encode_of_decodeHost {w : BitVec 64} {i : Instr} (h : decodeHost w = .ok i) :
    encode i = .host w ∧ WellFormed i = true := by
  unfold decodeHost at h
  split at h
  case h_12 => cases h
  all_goals
    next opc =>
    obtain ⟨mbz, rfl⟩ := (ifZero_ok_iff _ _ _).1 h
    refine ⟨?_, rfl⟩
    simp only [encode, encodePlain, transferWord, bit_getLsbD]
    rw [← opc, ← mbz, hostOpc]
    simp (disch := decide) only [BitVec.extractLsb'_append_extractLsb'_eq_extractLsb']
    exact congrArg _ BitVec.extractLsb'_eq_self

theorem decodeHost_transferWord (isI2c isMot : Bool) (rw : BitVec 2) (size : Byte) (addr : BitVec 20) :
    decodeHost (transferWord isI2c isMot rw size addr) = .ok (.auxTransfer isI2c isMot rw size addr) := by
  have opc : hostOpc (transferWord isI2c isMot rw size addr) = 0x01#8 := hostOpc_append _ _
  have i2c : (transferWord isI2c isMot rw size addr).getLsbD 8 = isI2c := getLsbD_append_bit _ _ _
  have mot : (transferWord isI2c isMot rw size addr).getLsbD 9 = isMot := by
    rw [transferWord, BitVec.getLsbD_append, if_neg (by decide)]
    exact getLsbD_append_bit _ _ _
  simp only [decodeHost, opc, i2c, mot]
  simp (disch := decide) only [transferWord, BitVec.extractLsb'_append_eq_of_le, BitVec.extractLsb'_append_eq_of_add_le,
    Nat.reduceSub, BitVec.extractLsb'_eq_self]
  rfl

theorem decodeHost_paramSetWord (field value : Byte) :
    decodeHost (0#40 ++ value ++ field ++ 0x12#8) = .ok (.paramSet field value) := by
  rw [decodeHost, hostOpc_append]
  simp (disch := decide) only [BitVec.extractLsb'_append_eq_of_le, BitVec.extractLsb'_append_eq_of_add_le, Nat.reduceSub,
    BitVec.extractLsb'_eq_self]
  rfl

theorem decodeHost_sigtabSetWord (rate swing preemp pre main post : Byte) :
    decodeHost (0#8 ++ post ++ main ++ pre ++ preemp ++ swing ++ rate ++ 0x13#8) =
      .ok (.sigtabSet rate swing preemp pre main post) := by
  rw [decodeHost, hostOpc_append]
  simp (disch := decide) only [BitVec.extractLsb'_append_eq_of_le, BitVec.extractLsb'_append_eq_of_add_le, Nat.reduceSub,
    BitVec.extractLsb'_eq_self]
  rfl

/-! ### The two directions -/

/-- Settles O1: an AUX kind by the row of its `CMD`, a host command by the fields of its word. -/
theorem decodeEncode : Obligations.DecodeEncode := by
  intro i wf
  cases i with
  | auxNr addr size => exact decode_encode_kindOf (cmd := 0x9#4) rfl wf
  | auxNw addr size => exact decode_encode_kindOf (cmd := 0x8#4) rfl wf
  | auxI2cr addr size => exact decode_encode_kindOf (cmd := 0x1#4) rfl wf
  | auxI2crMot addr size => exact decode_encode_kindOf (cmd := 0x5#4) rfl wf
  | auxI2cw addr size => exact decode_encode_kindOf (cmd := 0x0#4) rfl wf
  | auxI2cwMot addr size => exact decode_encode_kindOf (cmd := 0x4#4) rfl wf
  | auxI2cwsu addr size => exact decode_encode_kindOf (cmd := 0x2#4) rfl wf
  | auxI2cwsuMot addr size => exact decode_encode_kindOf (cmd := 0x6#4) rfl wf
  | auxTransfer isI2c isMot rw size addr => exact decodeHost_transferWord isI2c isMot rw size addr
  | trainDone success => cases success <;> rfl
  | paramSet field value => exact decodeHost_paramSetWord field value
  | sigtabSet rate swing preemp pre main post => exact decodeHost_sigtabSetWord rate swing preemp pre main post
  | _ => rfl

/-- Settles O2, in each of the two formats. -/
theorem encodeDecode : Obligations.EncodeDecode := by
  intro w i h
  cases w with
  | host w => exact encode_of_decodeHost h
  | req w addrOnly => exact encode_of_decodeReq h

/-! ### The formatter (R82, R83, R126) -/

/-- `CMD` of a request that passes validation is a row of R81 (R82, R87). -/
theorem kindOf_cmdOf {isI2c isMot : Bool} {rw : Rw} (native : isI2c = false → isMot = false ∧ rw ≠ .wsu) :
    (kindOf (cmdOf isI2c isMot rw)).isSome = true := by
  cases isI2c <;> cases isMot <;> cases rw <;> simp at native <;> rfl

theorem kindOf_isSome_iff (cmd : BitVec 4) :
    (kindOf cmd).isSome = true ↔ cmd ∈ ([0x0, 0x1, 0x2, 0x4, 0x5, 0x6, 0x8, 0x9] : List (BitVec 4)) := by
  revert cmd; decide

theorem lenOf_lt {size : Byte} (h : size ≤ 16#8) : (lenOf size).toNat < 16 := by
  unfold lenOf
  split <;> bv_omega

/-- Settles O4: no kind has a reserved `CMD`; and a validated request has the `CMD` of a kind and a size of at most 16. -/
theorem reservedRequests : Obligations.ReservedRequests := by
  refine ⟨fun w addrOnly reserved => ?_, fun q rw valid => ?_⟩
  · have none : kindOf (w.extractLsb' 28 4) = none := by
      revert reserved
      generalize (w.extractLsb' 28 4 : BitVec 4) = cmd
      revert cmd
      decide
    cases decoded : decode (.req w addrOnly) with
    | error e => exact ⟨e, rfl⟩
    | ok i =>
      obtain ⟨-, kind, -, some, -⟩ := (decodeReq_ok_iff _ _ _).1 decoded
      rw [none] at some
      cases some
  · obtain ⟨-, size, native⟩ := validRw_some valid
    constructor
    · rw [format, requestWord_cmd, ← kindOf_isSome_iff]
      exact kindOf_cmdOf fun h => ⟨(native h).1, (native h).2.2⟩
    · rw [format, BitVec.extractLsb'_append_eq_of_add_le (by decide), highNibble_eq_zero_iff]
      exact lenOf_lt size

/-- The direction and the flags of a kind's request give the `CMD` of its row (R81, R82). -/
theorem encode_auxRequest {i : Instr} {q : Request} {rw : Rw} (kind : ∀ a b c d e, i ≠ .auxTransfer a b c d e)
    (request : auxRequestOf i = some q) (code : rwOf q.rw = some rw) :
    encode i = encodeReq (cmdOf q.isI2c q.isMot rw) q.addr q.size := by
  cases i with
  | auxTransfer isI2c isMot rw size addr => exact absurd rfl (kind _ _ _ _ _)
  | _ => cases request <;> cases code <;> exact congrArg (encodeReq · _ _) (by dsimp only; decide)

/-- Settles O5: in each row the direction and the flags of the kind's request give the row's `CMD`. -/
theorem requestWordIsEncoding : Obligations.RequestWordIsEncoding := by
  intro i q rw kind request valid
  obtain ⟨code, -⟩ := validRw_some valid
  rw [encode_auxRequest kind request code, encodeReq_eq]
  rfl

/-- Settles O6: the assembled word holds the kind's request, and both run the same code under the same opcode. -/
theorem auxKindIsTransfer : Obligations.AuxKindIsTransfer := by
  intro i q request
  have word : assemble i = transferWord q.isI2c q.isMot q.rw q.size q.addr := by cases i <;> cases request <;> rfl
  refine ⟨by rw [word]; exact decodeHost_transferWord _ _ _ _ _, fun s => ?_⟩
  rw [exec_eq, exec_eq, codeOf_auxRequest request, opcodeOf_auxRequest request]
  rfl

end Sys2Proof.Machine
end

section
/-! PROOFS. O3, O7 and O57: what the host port does with a word (spec/30_encoding.md R92, R98; spec/60_exceptions.md R251). -/

namespace Sys2Proof.Machine

open Sys2Proof

/-! ### The rows of spec/opcode_table.json (R93 to R98) -/

/-- The opcode of each host command and the lowest of its must-be-zero bits, which are all above the operands (R93 to R97). -/
def hostForms : List (Byte × Nat) :=
  [(0x01, 40), (0x02, 8), (0x03, 8), (0x04, 8), (0x05, 8), (0x06, 9), (0x10, 8), (0x11, 8), (0x12, 24), (0x13, 56), (0x20, 8)]

/-- The mask of a row whose must-be-zero bits are those from `k` on. -/
def rowMask (k : Nat) : BitVec 64 := BitVec.allOnes 64 <<< k ||| 0xFF#64

theorem hostRows_eq : hostRows = hostForms.map fun form => (rowMask form.2, form.1.setWidth 64) := rfl

/-- The bits from `k` on are 0. -/
def ZeroFrom (k : Nat) (w : BitVec 64) : Prop := ∀ j, k ≤ j → w.getLsbD j = false

theorem zeroFrom_iff {k n : Nat} (h : k + n = 64) (w : BitVec 64) : ZeroFrom k w ↔ w.extractLsb' k n = 0#n := by
  constructor
  · intro zero
    ext j hj
    simp [zero (k + j) (by omega)]
  · intro zero j hj
    by_cases hj' : j < 64
    · have := congrArg (fun v => v.getLsbD (j - k)) zero
      simpa [show j - k < n by omega, show k + (j - k) = j by omega] using this
    · exact BitVec.getLsbD_of_ge _ _ (by omega)

theorem getLsbD_rowMask {k j : Nat} (hj : j < 64) : (rowMask k).getLsbD j = (decide (j < 8) || decide (k ≤ j)) := by
  have low : (0xFF#64).getLsbD j = decide (j < 8) := by interval_cases j <;> rfl
  have high : (BitVec.allOnes 64 <<< k).getLsbD j = decide (k ≤ j) := by
    rw [BitVec.getLsbD_shiftLeft, BitVec.getLsbD_allOnes, decide_eq_true hj, decide_eq_true (show j - k < 64 by omega),
      Bool.true_and, Bool.and_true, ← decide_not, decide_eq_decide, Nat.not_lt]
  rw [rowMask, BitVec.getLsbD_or, low, high, Bool.or_comm]

theorem hostOpc_eq_iff (w : BitVec 64) (opc : Byte) : hostOpc w = opc ↔ ∀ j < 8, w.getLsbD j = opc.getLsbD j := by
  rw [BitVec.eq_of_getLsbD_eq_iff]
  refine forall₂_congr fun j hj => ?_
  rw [hostOpc, BitVec.getLsbD_extractLsb', decide_eq_true hj, Bool.true_and, Nat.zero_add]

/-- A word matches a row exactly when its opcode is the row's and its must-be-zero bits are 0. -/
theorem and_rowMask_eq_iff {k : Nat} (hk : 8 ≤ k) (w : BitVec 64) (opc : Byte) :
    w &&& rowMask k = opc.setWidth 64 ↔ hostOpc w = opc ∧ ZeroFrom k w := by
  have bits : w &&& rowMask k = opc.setWidth 64 ↔
      ∀ j < 64, (w.getLsbD j && (decide (j < 8) || decide (k ≤ j))) = opc.getLsbD j := by
    rw [BitVec.eq_of_getLsbD_eq_iff]
    refine forall₂_congr fun j hj => ?_
    rw [BitVec.getLsbD_and, getLsbD_rowMask hj, BitVec.getLsbD_setWidth, decide_eq_true hj, Bool.true_and]
  rw [bits, hostOpc_eq_iff]
  constructor
  · refine fun eq => ⟨fun j hj => ?_, fun j hj => ?_⟩
    · simpa only [hj, decide_true, Bool.true_or, Bool.and_true] using eq j (by omega)
    · by_cases h : j < 64
      · simpa only [hj, decide_true, Bool.or_true, Bool.and_true, BitVec.getLsbD_of_ge opc j (by omega)] using eq j h
      · exact BitVec.getLsbD_of_ge _ _ (by omega)
  · rintro ⟨low, high⟩ j -
    by_cases hl : j < 8
    · simp only [hl, decide_true, Bool.true_or, Bool.and_true, low j hl]
    · rw [BitVec.getLsbD_of_ge opc j (by omega)]
      by_cases hh : k ≤ j
      · rw [high j hh, Bool.false_and]
      · simp only [hl, hh, decide_false, Bool.or_false, Bool.and_false]

theorem exists_row_iff (w : BitVec 64) :
    (∃ row ∈ hostRows, w &&& row.1 = row.2) ↔ ∃ form ∈ hostForms, hostOpc w = form.1 ∧ ZeroFrom form.2 w := by
  have operands : ∀ form ∈ hostForms, 8 ≤ form.2 := by decide
  rw [hostRows_eq]
  simp only [List.mem_map, exists_exists_and_eq_and]
  exact exists_congr fun form => and_congr_right fun h => and_rowMask_eq_iff (operands form h) w form.1

/-- The decoder accepts the words of the forms (R98). -/
theorem exists_decodeHost_iff (w : BitVec 64) :
    (∃ i, decodeHost w = .ok i) ↔ ∃ form ∈ hostForms, hostOpc w = form.1 ∧ ZeroFrom form.2 w := by
  simp only [hostForms, List.exists_mem_cons_iff, List.not_mem_nil, false_and, exists_false, or_false]
  unfold decodeHost
  split
  case h_12 => simp_all
  all_goals
    next opc =>
    simp [ifZero_ok_iff, opc, zeroFrom_iff (show 8 + 56 = 64 from rfl), zeroFrom_iff (show 9 + 55 = 64 from rfl),
      zeroFrom_iff (show 24 + 40 = 64 from rfl), zeroFrom_iff (show 40 + 24 = 64 from rfl),
      zeroFrom_iff (show 56 + 8 = 64 from rfl)]

/-! ### The step that takes a word (R92, R98, R251) -/

section
variable {s : State} {w : CommandWord} {rest : List HostAction} (none : s.blk.faults.first? = none) (seq : s.seq = [])
include none seq

theorem step_refusedWord {e : Reject} (rejected : decode w = .error e)
    (host : s.host = .run w :: rest ∨ s.host = .cmd w :: rest) : step s = .next (refusedWord rest s) := by
  obtain host | host := host <;> simp only [step, writeCommand, none, seq, host, rejected]

theorem step_run {i : Instr} (accepts : decode w = .ok i) (host : s.host = .run w :: rest) :
    step s = afterCommand (exec i (accepted w i rest s)) := by
  simp only [step, none, seq, host, accepts]

end

/-- Settles O3: the rows are the forms the decoder accepts, and a word of no form is refused. -/
theorem hostWordsRefused : Obligations.HostWordsRefused :=
  ⟨fun w => (exists_decodeHost_iff w).trans (exists_row_iff w).symm, fun _ _ _ _ rejected none seq host =>
    step_refusedWord none seq rejected host⟩

/-- Settles O57. -/
theorem stepRunsDecoded : Obligations.StepRunsDecoded := fun _ _ _ _ none seq host accepts => step_run none seq accepts host

/-- Settles O7, word by word: each is the encoding of its instruction, but for the last, which has a must-be-zero bit set. -/
theorem wordsOfTheSpec : Obligations.WordsOfTheSpec := by
  have word (i : Instr) (w : CommandWord) (spelled : encode i = w) (wf : WellFormed i = true) : decode w = .ok i :=
    spelled ▸ decodeEncode i wf
  exact ⟨word _ _ rfl rfl, word _ _ rfl rfl, word _ _ rfl rfl, word _ _ rfl rfl, word _ _ rfl rfl, word _ _ rfl rfl,
    word _ _ rfl rfl, word _ _ rfl rfl, word _ _ rfl rfl, rfl⟩

end Sys2Proof.Machine
end

section
/-! PROOFS. O8, O9 and O10: the field encodings and a request on the wire (spec/30_encoding.md R85, R86, R99 to R103). -/

namespace Sys2Proof.Machine

open Sys2Proof

theorem fallback_rate {t : TrainRegs} (h : t.status.curRate ≠ 0) : (fallback t).1.status.curRate = t.status.curRate - 1 := by
  rw [fallback, if_neg h]
  rfl

/-- Settles O8: each table by its rows. -/
theorem patternAndLaneBytes : Obligations.PatternAndLaneBytes := by
  refine ⟨by decide, fun t => fallback_rate, by decide, fun n i => decide_eq_true_iff, fun n ef => ?_, by decide, by decide⟩
  cases n <;> cases ef <;> rfl

/-- Settles O9. -/
theorem linkStatusPredicates : Obligations.LinkStatusPredicates := fun l n => ⟨crOk_iff l n, eqOk_iff l n⟩

/-- A request with `LEN` on the wire: the bytes of its word, then those of a write (R85). -/
theorem wireBytes_eq {r : ReqReg} (h : r.addrOnly = false) (wdata : Buf) :
    wireBytes r wdata = r.word.extractLsb' 24 8 :: r.word.extractLsb' 16 8 :: r.word.extractLsb' 8 8 :: r.word.extractLsb' 0 8 ::
      sentBytes r.rw r.size wdata := by
  simp [wireBytes, h, sentBytes]

theorem wireLength_eq {r : ReqReg} (h : r.addrOnly = false) (high : r.size ≤ 16#8) (wdata : Buf) :
    wireLength r = 4 + (sentBytes r.rw r.size wdata).length := by
  by_cases write : r.rw = .write
  · simp [wireLength, h, sentBytes, write, Buf.first_length wdata high]
  · simp [wireLength, h, sentBytes, write]

theorem sentBytes_length_le (rw : Rw) {size : Byte} (high : size ≤ 16#8) (buf : Buf) : (sentBytes rw size buf).length ≤ 16 := by
  unfold sentBytes
  split
  · rw [Buf.first_length buf high]
    exact high
  · exact Nat.zero_le _

/-- Settles O10: an address-only request is the three bytes of its header, for its size is 0; any other has `LEN` and its data. -/
theorem wireForm : Obligations.WireForm := by
  rintro r wdata ⟨high, flag, -⟩
  cases only : r.addrOnly with
  | true =>
    have zero : r.size = 0 := by simpa [only] using flag
    simp [wireBytes, wireLength, only, zero, Buf.first]
  | false =>
    have bound := sentBytes_length_le r.rw high wdata
    rw [wireBytes_eq only, wireLength_eq only high wdata]
    refine ⟨?_, by omega, by omega, rfl, fun _ => rfl, fun write k hk => ?_⟩
    · simp only [List.length_cons]; omega
    · rw [sentBytes, if_pos write, Nat.add_comm]
      exact Buf.first_get? wdata hk k.isLt

end Sys2Proof.Machine
end

section
/-! PROOFS. O20 and O21: the writes of the parameter store (spec/41_phy_param_store.md R173 to R176). -/

namespace Sys2Proof.Machine

open Sys2Proof

/-! ### The field that `PARAM.SET` names (R96, R173, R174) -/

theorem field_cases (field : Byte) : field = 0#8 ∨ field = 1#8 ∨ (2#8 ≤ field ∧ field ≤ 5#8) ∨
    (6#8 ≤ field ∧ field ≤ 9#8) ∨ (10#8 ≤ field ∧ field ≤ 12#8) ∨ field = 13#8 ∨ 13#8 < field := by
  bv_omega

theorem ofFn_ite_eq_set {α : Type} {n : Nat} (v : Vector α n) (k : Nat) (hk : k < n) (x : α) :
    (Vector.ofFn fun i : Fin n => if i.val = k then x else v[i]) = v.set k x := by
  refine Vector.ext fun i hi => ?_
  simp [Vector.getElem_set, eq_comm]

theorem flag_eq {v : Byte} (h : v ≤ 1#8) : v[0] = decide (v = 1#8) := by
  obtain rfl | rfl : v = 0#8 ∨ v = 1#8 := by bv_omega
  · rfl
  · rfl

theorem laneCountOf_eq (v : Byte) :
    laneCountOf v = if v = 1#8 then some .one else if v = 2#8 then some .two else if v = 4#8 then some .four else none := by
  unfold laneCountOf
  split <;> simp_all

theorem tpsOf_eq (v : Byte) :
    tpsOf v = if v = 2#8 then some .tps2 else if v = 3#8 then some .tps3 else if v = 4#8 then some .tps4 else none := by
  unfold tpsOf
  split <;> simp_all

/-- The rules' list of legal pairs and fields is the model's (R173, R174). -/
theorem paramSetResult_eq (field value : Byte) (p : LinkPhyParam) :
    paramSetResult field value p = if legalParam field value then some (setParamField field value p) else none := by
  obtain rfl | rfl | h | h | h | rfl | h := field_cases field
  · by_cases legal : value ≤ 3#8 <;> simp [paramSetResult, legalParam, setParamField, legal]
  · obtain rfl | rfl | rfl | ⟨one, two, four⟩ : value = 1#8 ∨ value = 2#8 ∨ value = 4#8 ∨
        (value ≠ 1#8 ∧ value ≠ 2#8 ∧ value ≠ 4#8) := by tauto
    · rfl
    · rfl
    · rfl
    · simp [paramSetResult, legalParam, laneCountOf_eq, one, two, four]
  · obtain rfl | rfl | rfl | rfl : field = 2#8 ∨ field = 3#8 ∨ field = 4#8 ∨ field = 5#8 := by bv_omega
    all_goals by_cases legal : value ≤ 3#8 <;> simp [paramSetResult, legalParam, setParamField, legal, ← ofFn_ite_eq_set]
  · obtain rfl | rfl | rfl | rfl : field = 6#8 ∨ field = 7#8 ∨ field = 8#8 ∨ field = 9#8 := by bv_omega
    all_goals by_cases legal : value ≤ 3#8 <;> simp [paramSetResult, legalParam, setParamField, legal, ← ofFn_ite_eq_set]
  · obtain rfl | rfl | rfl : field = 10#8 ∨ field = 11#8 ∨ field = 12#8 := by bv_omega
    all_goals by_cases legal : value ≤ 1#8 <;> simp [paramSetResult, legalParam, setParamField, legal, flag_eq]
  · obtain rfl | rfl | rfl | ⟨two, three, four⟩ : value = 2#8 ∨ value = 3#8 ∨ value = 4#8 ∨
        (value ≠ 2#8 ∧ value ≠ 3#8 ∧ value ≠ 4#8) := by tauto
    · rfl
    · rfl
    · rfl
    · simp [paramSetResult, legalParam, tpsOf_eq, two, three, four]
  · have ne (k : Byte) (hk : k ≤ 13#8) : field ≠ k := by bv_omega
    have nle (k : Byte) (hk : k ≤ 13#8) : ¬ field ≤ k := by bv_omega
    simp [paramSetResult, legalParam, ne, nle]

/-! ### A store write while the configuration is unlocked (R176, R251) -/

/-- The block after the command with this opcode, whose updates leave `b`, ended with this status (R251). -/
def completed (opc : Byte) (st : Status) (b : Block) : Block :=
  { b with
    port := { b.port with resStatus := st.code }
    train := { b.train with micro := none }
    hist := b.hist ++ [.cmdStart opc, .cmdEnd st]
    loc := { b.loc with ret := st } }

section
variable {s : State} (unlocked : s.blk.store.configLocked = false)
include unlocked

theorem exec_paramSet (field value : Byte) : exec (.paramSet field value) s = .next { s with blk := (
    if legalParam field value then completed 0x12 .ok (runUpdate (.paramSet field value) s.blk)
    else completed 0x12 .invalidArgument s.blk) } := by
  cases legal : legalParam field value <;>
    simp [exec_eq, runCommand, opcodeOf, codeOf, paramSetCode, block, runCode, evalTest, unlocked, legal, runAct,
      runUpdate, returning, endCommand, log, completed]

theorem exec_sigtabSet (rate swing preemp pre main post : Byte) :
    exec (.sigtabSet rate swing preemp pre main post) s = .next { s with blk := (
      if legalIndices rate swing preemp then completed 0x13 .ok (runUpdate (.sigtabSet rate swing preemp pre main post) s.blk)
      else completed 0x13 .invalidArgument s.blk) } := by
  cases legal : legalIndices rate swing preemp <;>
    simp [exec_eq, runCommand, opcodeOf, codeOf, sigtabSetCode, block, runCode, evalTest, unlocked, legal, runAct,
      runUpdate, returning, endCommand, log, completed]

end

/-- Settles O20. -/
theorem paramSet : Obligations.ParamSet := by
  intro field value s unlocked
  rw [paramSetResult_eq, exec_paramSet unlocked]
  cases legal : legalParam field value with
  | true => exact ⟨fun p eq => by cases eq; rfl, nofun⟩
  | false => exact ⟨nofun, fun _ => rfl⟩

/-! ### The entry that `SIGTAB.SET` names (R97, R175, R177) -/

theorem setWidth_eq_iff {v : Byte} (h : v ≤ 3#8) (x : BitVec 2) : x.setWidth 8 = v ↔ x = v.extractLsb' 0 2 := by
  have value : (v.extractLsb' 0 2).toNat = v.toNat := by
    rw [BitVec.extractLsb'_toNat, Nat.shiftRight_zero, Nat.mod_eq_of_lt (by bv_omega)]
  rw [← BitVec.toNat_inj, ← BitVec.toNat_inj, value, BitVec.toNat_setWidth, Nat.mod_eq_of_lt (by omega)]

theorem sigIndex_inj {r s p r' s' p' : BitVec 2} : sigIndex r s p = sigIndex r' s' p' ↔ r = r' ∧ s = s' ∧ p = p' := by
  refine ⟨fun eq => ?_, by rintro ⟨rfl, rfl, rfl⟩; rfl⟩
  have word : r ++ s ++ p = r' ++ s' ++ p' := BitVec.toFin_inj.1 eq
  refine ⟨?_, ?_, ?_⟩
  · simpa (disch := decide) only [BitVec.extractLsb'_append_eq_of_le, Nat.reduceSub, BitVec.extractLsb'_eq_self] using
      congrArg (BitVec.extractLsb' 4 2) word
  · simpa (disch := decide) only [BitVec.extractLsb'_append_eq_of_le, Nat.reduceSub, BitVec.extractLsb'_append_eq_right] using
      congrArg (BitVec.extractLsb' 2 2) word
  · simpa only [BitVec.extractLsb'_append_eq_right] using congrArg (BitVec.extractLsb' 0 2) word

theorem sigLookup_sigStore (st : ParamStore) (r s p r' s' p' : BitVec 2) (c : SigCodes) :
    sigLookup (sigStore st r s p c) r' s' p' = if r' = r ∧ s' = s ∧ p' = p then c else sigLookup st r' s' p' := by
  have same : (sigIndex r s p).val = (sigIndex r' s' p').val ↔ r' = r ∧ s' = s ∧ p' = p := by
    rw [← sigIndex_inj, Fin.ext_iff, eq_comm]
  simp only [sigLookup, sigStore, Fin.getElem_fin, Vector.getElem_set, same]

/-- Settles O21. -/
theorem sigtabSet : Obligations.SigtabSet := by
  intro rate swing preemp pre main post s unlocked
  rw [exec_sigtabSet unlocked]
  constructor
  · intro r w p
    have legal : legalIndices rate swing preemp = true := by simpa [legalIndices] using ⟨⟨r, w⟩, p⟩
    refine ⟨setSigEntry rate swing preemp pre main post s.blk.store, by rw [legal]; rfl, rfl, unlocked, fun r' w' p' => ?_⟩
    simp only [setWidth_eq_iff r, setWidth_eq_iff w, setWidth_eq_iff p]
    exact sigLookup_sigStore ..
  · intro high
    have illegal : legalIndices rate swing preemp = false := by
      simpa [legalIndices, ← BitVec.not_le, imp_iff_not_or, or_assoc] using high
    rw [illegal]
    rfl

end Sys2Proof.Machine
end

section
/-! PROOFS. O46 and O48: the sink service-interrupt parser with known answers (spec/43_sink_irq.md R240 to R248). -/

namespace Sys2Proof.Machine

open Sys2Proof

/-! ### What the parser has read (R240 to R245) -/

/-- The registers and locals that the parser works on: its record, the vector, the test request and the status so far. -/
structure ParserRegs where
  sirq : SinkIrqRec
  v : Byte
  t : Byte
  st : Status

def Block.parser (b : Block) : ParserRegs := ⟨b.sirq, b.loc.v, b.loc.t, b.loc.st⟩

/-- What a successful access leaves there of the bytes `d` read (R240 to R244). -/
def Access.parsed (a : Access) (d : Buf) (r : ParserRegs) : ParserRegs :=
  match a with
  | .irqVector => { r with v := d[0], sirq.raw := d[0], sirq.valid := true }
  | .testRequest => { r with t := d[0] }
  | .testLinkRate => { r with sirq.testRate := d[0] }
  | .testLaneCount => { r with sirq.testLanes := (d[0].extractLsb' 0 5).setWidth 8 }
  | .phyTestPattern => { r with sirq.testPattern := d[0] }
  | .customPattern => { r with sirq.custom := Vector.ofFn fun i => d[i.val]'(by omega), sirq.customValid := true }
  | .adjustRequest => { r with sirq := captureAdjust d[0] d[1] r.sirq }
  | _ => r

theorem store_parser (a : Access) (b : Block) : (a.store b).parser = a.parsed b.ibuf b.parser := by cases a <;> rfl

/-- Only the bytes read matter. -/
theorem parsed_put_first (a : Access) (b d : Buf) (r : ParserRegs) :
    a.parsed (b.put (d.first a.size.toNat)) r = a.parsed d r := by
  cases a <;> simp [Access.parsed, Access.size, Buf.put_first_get]

theorem issueEvent_read {a : Access} (read : a.isWrite = false) (b : Block) : a.issueEvent b = readIssue a := by
  have len : lenOf a.size = a.size - 1 := if_neg (by cases a <;> simp [Access.size])
  have rw : a.rw = .read := by simp [Access.rw, read]
  have cmd : cmdOf false false .read = 0x9#4 := by decide
  simp [Access.issueEvent, readIssue, a.data_read b read, format, Access.request, rw, len, cmd]

theorem isIssue_of_not_isStep {e : Event} (h : e.isStep = false) : e.isIssue = false := by
  cases e with
  | log => rfl
  | _ => cases h

/-! ### The parser's accesses (R149 to R151) -/

/-- Inside the parser, where no service comes between: the issues of the history, the answers to come, and what the parser works
on. -/
structure Parsing (h : List Event) (as : List AuxAnswer) (r : ParserRegs) (b : Block) : Prop where
  quiet : Quiet b
  issues : b.hist.filter Event.isIssue = h
  answers : b.env.aux = as
  regs : b.parser = r

section
variable {h : List Event} {x : AuxAnswer} {as : List AuxAnswer} {r : ParserRegs} {a : Access} {onFail : Code}
  {N B R : Block → Prop}

theorem Parsing.returning {b : Block} (hb : Parsing h as r b) (st : Status) : Parsing h as r { b with loc.ret := st } :=
  ⟨hb.quiet, hb.issues, hb.answers, hb.regs⟩

theorem Parsing.answered {b : Block} (hb : Parsing h (x :: as) r b) (idle : b.aux.fsm = .idle) :
    Parsing (h ++ [a.issueEvent b]) as r (Machine.answered a x as b) := by
  obtain ⟨quiet, issues, answers, regs⟩ := hb
  refine ⟨answered_quiet a x as idle quiet, ?_, answered_envAux a x as b, ?_⟩
  · obtain ⟨l, eq, log, -⟩ := answered_hist a x as idle
    have gone : l.filter Event.isIssue = [] := List.filter_eq_nil_iff.2 fun e he => by
      simp [isIssue_of_not_isStep (log e he)]
    have answer : (answerEvent x).isIssue = false := by cases x <;> rfl
    have issue : (a.issueEvent b).isIssue = true := rfl
    simp [eq, issues, gone, answer, issue]
  · have sirq : (Machine.answered a x as b).sirq = b.sirq := by simp [Machine.answered, issued_eq idle, auxIssue_idle idle]
    rw [← regs, Block.parser, Block.parser, answered_loc a x as idle, sirq]

theorem Parsing.access {issue : Event} (defers : ¬ Defers x) (event : ∀ b, Parsing h (x :: as) r b → a.issueEvent b = issue)
    (post : ∀ c, Parsing (h ++ [issue]) as r c → N (accessResult a (a.result x) c)) :
    Triple boundary (Parsing h (x :: as) r) (.access a) N B R := by
  intro b idle hb
  obtain ⟨-, idle', steady, -⟩ := runAccess_keeps boundary_gentle a b idle
  have run := runAccess_answered (a := a) idle hb.quiet hb.answers defers
  rw [run] at idle' steady
  simp only [runCode, run]
  exact ⟨idle', steady, post _ (event b hb ▸ hb.answered idle)⟩

/-- An access that fails leaves the parser's registers. -/
theorem Parsing.failed {c : Block} (hc : Parsing h as r c) (fails : ¬ WholeAck a x) :
    Parsing h as r (accessResult a (a.result x) c) ∧ (accessResult a (a.result x) c).loc.ok = false := by
  have no : succeeded a (a.result x) = false := by simpa using (succeeded_result_iff a x).not.2 fails
  refine ⟨?_, by rw [accessResult_ok, no]⟩
  obtain ⟨quiet, issues, answers, regs⟩ := hc
  simp only [accessResult, no, Bool.false_eq_true, if_false]
  exact ⟨quiet, issues, answers, regs⟩

/-- An access that succeeds leaves there what it read. -/
theorem Parsing.succeeded {c : Block} (hc : Parsing h as r c) (whole : WholeAck a x) :
    Parsing h as (a.parsed (c.ibuf.put (a.result x).data) r) (accessResult a (a.result x) c) ∧
      (accessResult a (a.result x) c).loc.ok = true := by
  refine ⟨?_, by rw [accessResult_ok, (succeeded_result_iff a x).2 whole]⟩
  obtain ⟨quiet, issues, answers, rfl⟩ := hc
  refine ⟨?_, by rw [accessResult_hist, issues], by rw [accessResult_env, answers], ?_⟩
  · simpa [Quiet, accessResult_svc, accessResult_env] using quiet
  · rw [accessResult_whole whole, store_parser]
    rfl

section
variable {issue : Event} (defers : ¬ Defers x) (event : ∀ b, Parsing h (x :: as) r b → a.issueEvent b = issue)
include defers event

/-- An access that fails, with what is then done (R241, R242, R246). -/
theorem Parsing.orFailed (fails : ¬ WholeAck a x) (rest : Triple boundary (Parsing (h ++ [issue]) as r) onFail N B R) :
    Triple boundary (Parsing h (x :: as) r) (accessOr a onFail) N B R :=
  .seq (M := fun b => Parsing (h ++ [issue]) as r b ∧ b.loc.ok = false)
    (Parsing.access defers event fun _ hc => hc.failed fails) <|
    .condFalse (fun _ hb => hb.2) (rest.pre fun _ => And.left)

/-- An access that is wholly acknowledged. -/
theorem Parsing.orWhole {r' : ParserRegs} (whole : WholeAck a x)
    (stored : ∀ buf : Buf, a.parsed (buf.put (a.result x).data) r = r') :
    Triple boundary (Parsing h (x :: as) r) (accessOr a onFail) (Parsing (h ++ [issue]) as r') B R :=
  .seq (M := fun b => Parsing (h ++ [issue]) as r' b ∧ b.loc.ok = true)
    (Parsing.access defers event fun c hc => stored c.ibuf ▸ hc.succeeded whole) <|
    .condTrue (fun _ hb => hb.2) (Triple.skip.pre fun _ => And.left)

end

theorem wholeAck_ackRead (read : a.isWrite = false) (d : Buf) : WholeAck a (ackRead a.size d) :=
  ⟨_, _, rfl, rfl, rfl, rfl, by simp [read, ackStatus]⟩

/-- A read that is wholly acknowledged. -/
theorem Parsing.readOk (read : a.isWrite = false) (d : Buf) :
    Triple boundary (Parsing h (ackRead a.size d :: as) r) (accessOr a onFail)
      (Parsing (h ++ [readIssue a]) as (a.parsed d r)) B R := by
  have whole := wholeAck_ackRead read d
  have data : (a.result (ackRead a.size d)).data = d.first a.size.toNat := result_data read whole
  exact Parsing.orWhole whole.not_defers (fun b _ => issueEvent_read read b) whole fun buf => by rw [data, parsed_put_first]

end

/-! ### A run with known answers -/

theorem testLanes_mask (x : Byte) : (x.extractLsb' 0 5).setWidth 8 = x &&& 0x1F :=
  BitVec.eq_of_toNat_eq <| by
    have mod : x.toNat % 2 ^ 5 = x.toNat &&& 31 := (Nat.and_two_pow_sub_one_eq_mod _ 5).symm
    simp
    omega

theorem adjSwing_laneNibble (d : Buf) (i : Lane) :
    adjSwing (laneNibble d[0] d[1] i) = (d[i.val / 2]'(by omega)).extractLsb' (4 * (i.val % 2)) 2 := by
  fin_cases i <;> simp [adjSwing, laneNibble] <;> rw [extractLsb'_extractLsb' _ (by decide)]

theorem adjPreemp_laneNibble (d : Buf) (i : Lane) :
    adjPreemp (laneNibble d[0] d[1] i) = (d[i.val / 2]'(by omega)).extractLsb' (4 * (i.val % 2) + 2) 2 := by
  fin_cases i <;> simp [adjPreemp, laneNibble] <;> rw [extractLsb'_extractLsb' _ (by decide)]

/-- A run whose vector was read: the bytes each read gives, the reads to make, the index of the first that fails (their number when
none does), the answer to it, the answer to the clear and those after it, and what an earlier run left. -/
structure Script where
  data : Access → Buf
  reads : List Access
  k : Nat
  failing : AuxAnswer
  clear : AuxAnswer
  rest : List AuxAnswer
  before : ParserRegs

namespace Script

/-- The read at index `k` is answered by a failure. -/
def Fails (x : Script) : Prop := ∀ a, x.reads[x.k]? = some a → ¬ Defers x.failing ∧ ¬ WholeAck a x.failing

/-- The answers to come when the reads of `todo` are left to make and those of `done` succeeded. -/
def answers (x : Script) (done todo : List Access) : List AuxAnswer :=
  ((todo.take (x.k - done.length)).map fun a => ackRead a.size (x.data a)) ++
    (if x.k < x.reads.length then [x.failing] else []) ++ x.clear :: x.rest

/-- What the parser works on when the reads of `done` succeeded and the tests of the reads `marked` were marked (R243, R244). -/
def regs (x : Script) (marked done : List Access) : ParserRegs where
  sirq := { parserRecord x.data marked done with cpIrq := false }
  v := (x.data .irqVector)[0]
  t := if .testRequest ∈ done then (x.data .testRequest)[0] else x.before.t
  st := .ok

theorem regs_read (x : Script) (done : List Access) (a : Access) :
    a.parsed (x.data a) (x.regs (done ++ [a]) done) = x.regs (done ++ [a]) (done ++ [a]) := by
  cases a <;> simp [Access.parsed, regs, parserRecord, captureAdjust, testLanes_mask, adjSwing_laneNibble, adjPreemp_laneNibble]

/-- The parser with the reads of `done` made and those of `todo` left to make. -/
structure Reached (x : Script) (h : List Event) (done todo marked : List Access) (b : Block) : Prop where
  split : x.reads = done ++ todo
  le : done.length ≤ x.k
  parsing : Parsing (h ++ done.map readIssue) (x.answers done todo) (x.regs marked done) b

/-- The same with every test marked whose reads have begun. -/
abbrev Made (x : Script) (h : List Event) (done todo : List Access) : Block → Prop := x.Reached h done todo done

/-- The parser after its test request, whether or not a read failed (R242, R247). -/
def Parsed (x : Script) (h : List Event) (b : Block) : Prop :=
  Parsing (h ++ (x.reads.take (x.k + 1)).map readIssue) (x.clear :: x.rest)
    { x.regs (x.reads.take (x.k + 1)) (x.reads.take x.k) with st := if x.k = x.reads.length then .ok else .protocolError } b

section
variable {x : Script} {h : List Event} {done todo : List Access} {a : Access} {N B R : Block → Prop}

theorem answers_failing (eq : x.reads = done ++ a :: todo) (here : done.length = x.k) :
    x.answers done (a :: todo) = x.failing :: x.clear :: x.rest := by
  simp [answers, eq, ← here]

theorem answers_read (later : done.length < x.k) :
    x.answers done (a :: todo) = ackRead a.size (x.data a) :: x.answers (done ++ [a]) todo := by
  have left : x.k - done.length = x.k - (done.length + 1) + 1 := by omega
  simp [answers, left]

theorem Made.parsed {b : Block} (hb : x.Made h done [] b) (le : x.k ≤ x.reads.length) : x.Parsed h b := by
  obtain ⟨split, le', parsing⟩ := hb
  rw [List.append_nil] at split
  have all : x.k = done.length := Nat.le_antisymm (split ▸ le) le'
  have tried : done.take (x.k + 1) = done := List.take_of_length_le (by omega)
  have made : done.take x.k = done := List.take_of_length_le (by omega)
  have last : x.answers done [] = x.clear :: x.rest := by simp [answers, split, all]
  rw [Parsed, split, tried, made, if_pos all, ← last]
  exact parsing

/-- The read at index `k` failed: the next one is not made (R242). -/
theorem parsed_of_failed {b : Block} (split : x.reads = done ++ a :: todo) (here : done.length = x.k)
    (hb : Parsing (h ++ (done ++ [a]).map readIssue) (x.clear :: x.rest)
      { x.regs (done ++ [a]) done with st := .protocolError } b) :
    x.Parsed h b := by
  have tried : x.reads.take (x.k + 1) = done ++ [a] := by simp [split, ← here, List.take_append]
  have made : x.reads.take x.k = done := by simp [split, ← here]
  have stopped : x.k ≠ x.reads.length := by simp [split, ← here]
  rwa [Parsed, tried, made, if_neg stopped]

/-- What follows a read that fails (R242). -/
theorem testReadFailed_parsed (split : x.reads = done ++ a :: todo) (here : done.length = x.k) :
    Triple boundary (Parsing (h ++ done.map readIssue ++ [readIssue a]) (x.clear :: x.rest) (x.regs (done ++ [a]) done))
      testReadFailed N B (x.Parsed h) := by
  refine .seq (M := x.Parsed h) (.first rfl fun b hb => parsed_of_failed split here ?_) (.ret fun _ hb => Parsing.returning hb _)
  obtain ⟨quiet, issues, answers, regs⟩ := hb
  exact ⟨quiet, issues.trans (by simp), answers, by rw [← regs]; rfl⟩

/-- The record knows of a test only whether it was marked. -/
theorem regs_congr {m m' done : List Access} (rate : .testLinkRate ∈ m ↔ .testLinkRate ∈ m')
    (pattern : .phyTestPattern ∈ m ↔ .phyTestPattern ∈ m') : x.regs m done = x.regs m' done := by
  simp [regs, parserRecord, rate, pattern]

section
variable (fails : x.Fails)
include fails

/-- One of the reads of a test request, its test marked before it (R242 to R244). -/
theorem testRead (read : a.isWrite = false) :
    Triple boundary (x.Reached h done (a :: todo) (done ++ [a])) (accessOr a testReadFailed) (x.Made h (done ++ [a]) todo) B
      (x.Parsed h) := by
  intro b idle ⟨split, le, parsing⟩
  refine Triple.pre (P := Parsing _ _ _) ?_ (fun _ => id) b idle parsing
  obtain here | later := Nat.eq_or_lt_of_le le
  · obtain ⟨defers, whole⟩ := fails a (by simp [split, ← here])
    rw [answers_failing split here]
    exact Parsing.orFailed defers (fun b _ => issueEvent_read read b) whole (testReadFailed_parsed split here)
  · rw [answers_read later]
    refine (Parsing.readOk read (x.data a)).post fun c hc => ⟨by simp [split], by simpa using later, ?_⟩
    simpa [regs_read] using hc

/-- A read that begins no test. -/
theorem readField (read : a.isWrite = false) (rate : a ≠ .testLinkRate) (pattern : a ≠ .phyTestPattern) :
    Triple boundary (x.Made h done (a :: todo)) (accessOr a testReadFailed) (x.Made h (done ++ [a]) todo) B (x.Parsed h) := by
  refine (testRead fails read).pre fun b ⟨split, le, parsing⟩ => ⟨split, le, ?_⟩
  rwa [regs_congr (m' := done) (by simp [rate.symm]) (by simp [pattern.symm])]

end

/-- A test is marked before its first read (R243, R244). -/
theorem mark {u : Update} {f : SinkIrqRec → SinkIrqRec} {marked : List Access} (plain : (Act.upd u).plain = true)
    (update : ∀ b, runUpdate u b = { b with sirq := f b.sirq })
    (marks : { x.regs done done with sirq := f (x.regs done done).sirq } = x.regs marked done) :
    Triple boundary (x.Made h done todo) (.act (.upd u)) (x.Reached h done todo marked) B R :=
  .act boundary_gentle plain fun b ⟨split, le, quiet, issues, answers, regs⟩ => by
    rw [boundary_quiet quiet, runAct, update]
    exact ⟨split, le, quiet, issues, answers, by rw [← marks, ← regs]; rfl⟩

theorem markTraining :
    Triple boundary (x.Made h done todo) (.act (.upd .irqTestTraining)) (x.Reached h done todo (done ++ [.testLinkRate])) B R :=
  mark (f := fun r => { r with testTraining := true }) rfl (fun _ => rfl) (by simp [regs, parserRecord])

theorem markPhy :
    Triple boundary (x.Made h done todo) (.act (.upd .irqTestPhy)) (x.Reached h done todo (done ++ [.phyTestPattern])) B R :=
  mark (f := fun r => { r with testPhy := true }) rfl (fun _ => rfl) (by simp [regs, parserRecord])

/-- Code that runs exactly when its reads are asked for. -/
theorem askedFor {t : Test} {c : Code} {ask : Prop} [Decidable ask] {part : List Access}
    (test : ∀ todo b, x.Made h done todo b → evalTest t b = decide ask)
    (run : Triple boundary (x.Made h done (part ++ todo)) c (x.Made h (done ++ part) todo) B R) :
    Triple boundary (x.Made h done ((if ask then part else []) ++ todo)) (.cond t c .skip)
      (x.Made h (done ++ if ask then part else []) todo) B R := by
  by_cases asked : ask
  · rw [if_pos asked]
    exact .condTrue (fun b hb => (test _ b hb).trans (decide_eq_true asked)) run
  · rw [if_neg asked, List.append_nil]
    exact .condFalse (fun b hb => (test _ b hb).trans (decide_eq_false asked)) .skip

section
variable (fails : x.Fails)
include fails

/-- The training test's reads (R243). -/
theorem trainingTest :
    Triple boundary (x.Made h done (.testLinkRate :: .testLaneCount :: todo)) trainingTestCode
      (x.Made h (done ++ [.testLinkRate] ++ [.testLaneCount]) todo) B (x.Parsed h) :=
  .seq markTraining (.seq (testRead fails rfl) (readField fails rfl (by decide) (by decide)))

/-- The reads of a phy-pattern test (R244). -/
def phyReads (x : Script) : List Access :=
  .phyTestPattern :: ((if (x.data .phyTestPattern)[0] = 0x04 then [.customPattern] else []) ++ [.adjustRequest])

theorem phyTest :
    Triple boundary (x.Made h done (x.phyReads ++ todo)) phyTestCode (x.Made h (done ++ x.phyReads) todo) B (x.Parsed h) := by
  have pattern : ∀ todo b, x.Made h (done ++ [.phyTestPattern]) todo b →
      evalTest .customPattern b = decide ((x.data .phyTestPattern)[0] = 0x04) := fun todo b hb => by
    have sirq : b.sirq = _ := congrArg ParserRegs.sirq hb.parsing.regs
    simp [evalTest, sirq, regs, parserRecord, customPatternId, beq_eq_decide]
  have run : Triple boundary (x.Made h done _) phyTestCode (x.Made h _ todo) B (x.Parsed h) :=
    .seq markPhy <| .seq (testRead fails rfl) <|
      .seq (askedFor (part := [.customPattern]) pattern (readField fails rfl (by decide) (by decide))) <|
      readField (a := .adjustRequest) fails rfl (by decide) (by decide)
  simpa [phyReads] using run

/-- `TestRequest()`, asked for by the vector (R242). -/
theorem testRequest (le : x.k ≤ x.reads.length)
    (reads : x.reads = .testRequest ::
      ((if (x.data .testRequest)[0].getLsbD 0 then [.testLinkRate, .testLaneCount] else []) ++
        (if (x.data .testRequest)[0].getLsbD 3 then x.phyReads else []))) :
    Triple boundary (x.Made h [] x.reads) testRequestCode (x.Parsed h) B (x.Parsed h) := by
  have bit : ∀ (n : Nat) (part : List Access) todo b, x.Made h ([.testRequest] ++ part) todo b →
      evalTest (.testBit n) b = decide ((x.data .testRequest)[0].getLsbD n = true) := fun n part todo b hb => by
    have request : b.loc.t = _ := congrArg ParserRegs.t hb.parsing.regs
    simp [evalTest, request, regs]
  have phyPart : ∀ done, (∀ todo b, x.Made h done todo b → evalTest (.testBit 3) b = _) → Triple boundary
      (x.Made h done (if (x.data .testRequest)[0].getLsbD 3 then x.phyReads else [])) (.cond (.testBit 3) phyTestCode .skip)
      (x.Made h (done ++ if (x.data .testRequest)[0].getLsbD 3 then x.phyReads else []) []) B (x.Parsed h) := fun done test =>
    (askedFor test (phyTest fails)).pre fun b hb => by rwa [List.append_nil]
  rw [reads]
  exact .seq (readField fails rfl (by decide) (by decide)) <|
    .seq (askedFor (part := [.testLinkRate, .testLaneCount]) (bit 0 []) (trainingTest fails)) <|
    .seq (phyPart _ (bit 3 _)) <| .ret fun b (hb : x.Made h _ [] b) => (hb.parsed le).returning _

end

/-- How the run ends (R247). -/
def status (x : Script) : Status :=
  if x.k = x.reads.length ∧ succeeded .irqClear (Access.result .irqClear x.clear) then .ok else .protocolError

theorem status_code (x : Script) : x.status.code = 0 ∨ x.status.code = 3 := by
  unfold status
  split
  · exact .inl rfl
  · exact .inr rfl

theorem status_code_eq_zero_iff (x : Script) : x.status.code = 0 ↔ x.k = x.reads.length ∧ WholeAck .irqClear x.clear := by
  rw [← succeeded_result_iff]
  unfold status
  split
  · simp_all [Status.code]
  · simp_all [Status.code]

/-- The parser after its reads, with the content-protection bit (R245). -/
def AllRead (x : Script) (h : List Event) (b : Block) : Prop :=
  Parsing (h ++ (x.reads.take (x.k + 1)).map readIssue) (x.clear :: x.rest)
    { x.regs (x.reads.take (x.k + 1)) (x.reads.take x.k) with
      sirq := parserRecord x.data (x.reads.take (x.k + 1)) (x.reads.take x.k)
      st := if x.k = x.reads.length then .ok else .protocolError } b

/-- The parser after the clear (R246). -/
def Cleared (x : Script) (h : List Event) (b : Block) : Prop :=
  Parsing (h ++ (x.reads.take (x.k + 1)).map readIssue ++ [.auxIssue 0x80020100 false [(x.data .irqVector)[0]]]) x.rest
    { x.regs (x.reads.take (x.k + 1)) (x.reads.take x.k) with
      sirq := parserRecord x.data (x.reads.take (x.k + 1)) (x.reads.take x.k)
      st := x.status } b

/-- The record is emptied (R240). -/
theorem begins {as : List AuxAnswer} {r : ParserRegs} : Triple boundary (Parsing h as r) (.act (.upd .irqBegin))
    (Parsing h as { r with sirq := zeroSirq, st := .ok }) B R :=
  .act boundary_gentle rfl fun b ⟨quiet, issues, answers, regs⟩ => by
    rw [boundary_quiet quiet]
    exact ⟨quiet, by simpa [runAct, runUpdate, log, Event.isIssue] using issues, answers, by rw [← regs]; rfl⟩

/-- The vector is read (R240). -/
theorem vectorRead : Triple boundary
    (Parsing h (ackRead 1 (x.data .irqVector) :: x.answers [] x.reads) { x.before with sirq := zeroSirq, st := .ok })
    (accessOr .irqVector (.ret .protocolError)) (x.Made (h ++ [readIssue .irqVector]) [] x.reads) B R := by
  have start : Access.irqVector.parsed (x.data .irqVector) { x.before with sirq := zeroSirq, st := .ok } = x.regs [] [] := by
    simp [regs, Access.parsed, zeroSirq, parserRecord, Vector.ext_iff]
  have run := Parsing.readOk (h := h) (as := x.answers [] x.reads) (r := { x.before with sirq := zeroSirq, st := .ok })
    (a := .irqVector) (onFail := .ret .protocolError) (B := B) (R := R) rfl (x.data .irqVector)
  rw [start] at run
  exact run.post fun b hb => ⟨rfl, Nat.zero_le _, by simpa using hb⟩

theorem contentProtection : Triple boundary (x.Parsed h) (.cond (.vectorBit 2) (.act (.upd .irqCp)) .skip) (x.AllRead h) B R := by
  have bit : ∀ b, x.Parsed h b → b.loc.v = (x.data .irqVector)[0] := fun b hb => congrArg ParserRegs.v hb.regs
  refine .cond (.act boundary_gentle rfl fun b ⟨hb, set⟩ => ?_) (Triple.skip.pre fun b ⟨hb, clear⟩ => ?_)
  · simp only [evalTest, bit b hb] at set
    obtain ⟨quiet, issues, answers, regs⟩ := hb
    rw [boundary_quiet quiet]
    refine ⟨quiet, issues, answers, (congrArg (fun r => { r with sirq.cpIrq := true }) regs).trans ?_⟩
    simp [Script.regs, parserRecord, set]
  · simp only [evalTest, bit b hb] at clear
    obtain ⟨quiet, issues, answers, regs⟩ := hb
    refine ⟨quiet, issues, answers, regs.trans ?_⟩
    rw [Script.regs, parserRecord, clear]

theorem vectorCleared (defers : ¬ Defers x.clear) :
    Triple boundary (x.AllRead h) (accessOr .irqClear (.first (.upd .irqError))) (x.Cleared h) B R := by
  have event : ∀ b, x.AllRead h b → Access.irqClear.issueEvent b = .auxIssue 0x80020100 false [(x.data .irqVector)[0]] :=
    fun b hb => congrArg (fun v => Event.auxIssue 0x80020100 false [v]) (congrArg ParserRegs.v hb.regs)
  by_cases whole : WholeAck .irqClear x.clear
  · refine Parsing.orWhole defers event whole fun _ => ?_
    simp [status, Access.parsed, (succeeded_result_iff _ _).2 whole]
  · refine Parsing.orFailed defers event whole (.first rfl fun b ⟨quiet, issues, answers, regs⟩ =>
      ⟨quiet, issues, answers, ?_⟩)
    have failed : x.status = .protocolError := if_neg fun done => whole ((succeeded_result_iff _ _).1 done.2)
    rw [failed]
    exact congrArg (fun r => { r with st := Status.protocolError }) regs

/-- The test request's part of the run (R241, R242). -/
theorem testPart (fails : x.Fails) (le : x.k ≤ x.reads.length)
    (reads : x.reads = parserReads (x.data .irqVector)[0] (x.data .testRequest)[0] (x.data .phyTestPattern)[0]) :
    Triple boundary (x.Made h [] x.reads) (.cond (.vectorBit 1) (.call testRequestCode) .skip) (x.Parsed h) B R := by
  have bit : ∀ b, x.Made h [] x.reads b → evalTest (.vectorBit 1) b = (x.data .irqVector)[0].getLsbD 1 := fun b hb =>
    congrArg (fun r : ParserRegs => r.v.getLsbD 1) hb.parsing.regs
  cases set : (x.data .irqVector)[0].getLsbD 1 with
  | true =>
    exact .condTrue (fun b hb => (bit b hb).trans set) (.call (testRequest fails le (by rw [reads, parserReads, if_pos set]; rfl)))
  | false =>
    have none : x.reads = [] := by rw [reads, parserReads, if_neg (by rw [set]; decide)]
    refine .condFalse (fun b hb => (bit b hb).trans set) (Triple.skip.pre fun b hb => ?_)
    rw [none] at hb
    exact hb.parsed le

/-- The parser's run with known answers (R240 to R247). -/
theorem parser (fails : x.Fails) (le : x.k ≤ x.reads.length) (defers : ¬ Defers x.clear)
    (reads : x.reads = parserReads (x.data .irqVector)[0] (x.data .testRequest)[0] (x.data .phyTestPattern)[0]) :
    Triple boundary (Parsing h (ackRead 1 (x.data .irqVector) :: x.answers [] x.reads) x.before) parserCode N B
      (fun b => x.Cleared (h ++ [readIssue .irqVector]) b ∧ b.loc.ret = x.status) :=
  .seq begins <| .seq vectorRead <| .seq (testPart fails le reads) <| .seq contentProtection <| .seq (vectorCleared defers) <|
    .retSt fun _ hb => ⟨hb.returning _, congrArg ParserRegs.st hb.regs⟩

end

end Script

/-- Settles O46, by the parser's run with known answers. -/
theorem sinkIrqParses : Obligations.SinkIrqParses := by
  unfold Obligations.SinkIrqParses
  intro s data k f c rest v reads idle quiet le answers fails defers
  let x : Script := ⟨data, reads, k, f, c, rest, s.blk.parser⟩
  let h := s.blk.hist.filter Event.isIssue
  have start : Parsing h (ackRead 1 (x.data .irqVector) :: x.answers [] x.reads) x.before
      (log (.cmdStart (opcodeOf .sinkIrq)) s.blk) :=
    ⟨quiet, by simp [log, h, Event.isIssue], answers, rfl⟩
  obtain ⟨b, eq, ⟨⟨-, issues, answers', regs⟩, ret⟩, -, steady⟩ :=
    exec_of_triple (i := .sinkIrq) (x.parser fails le defers rfl) idle start
  obtain ⟨d, hist⟩ := steady.hist_endCommand
  have made : d.filter Event.isIssue =
      .auxIssue 0x90020100 false [] :: (reads.take (k + 1)).map readIssue ++ [.auxIssue 0x80020100 false [v]] := by
    have all := issues
    rw [endCommand_hist, List.append_cancel_right_eq] at hist
    simp only [hist, List.filter_append, List.append_assoc] at all
    exact List.append_cancel_left all
  refine ⟨endCommand b, .cmdStart (opcodeOf .sinkIrq) :: d ++ [.cmdEnd b.loc.ret], eq, answers', ?_, ?_,
    congrArg ParserRegs.sirq regs, by simpa using hist, by simpa [Event.isIssue] using made⟩
  · rw [endCommand_resStatus, ret]
    exact x.status_code
  · rw [endCommand_resStatus, ret]
    exact x.status_code_eq_zero_iff

/-- The bytes read in a phy-pattern test. -/
def phyTestBytes (d1 d2 d3 d4 d5 : Buf) : Access → Buf
  | .testRequest => d2
  | .phyTestPattern => d3
  | .customPattern => d4
  | .adjustRequest => d5
  | _ => d1

/-- Settles O48: the run with no read that fails, of the reads that a custom pattern asks for. -/
theorem sinkIrqPhyTest : Obligations.SinkIrqPhyTest := by
  unfold Obligations.SinkIrqPhyTest
  intro s d1 d2 d3 d4 d5 d6 rest idle quiet answers asked training phy custom
  have reads : parserReads d1[0] d2[0] d3[0] = [.testRequest, .phyTestPattern, .customPattern, .adjustRequest] := by
    rw [parserReads, if_pos asked, if_neg (by rw [training]; decide), if_pos phy, if_pos custom]
    rfl
  have whole : WholeAck .irqClear (ackWrite d6) := ⟨_, _, rfl, rfl, rfl, rfl, .inl rfl⟩
  have run := sinkIrqParses s (phyTestBytes d1 d2 d3 d4 d5) 4 .timedOut (ackWrite d6) rest idle quiet
  simp only [phyTestBytes, reads] at run
  obtain ⟨b, d, eq, -, -, ok, record, hist, issues⟩ := run (Nat.le_refl _) answers nofun whole.not_defers
  refine ⟨b, d, eq, ok.2 ⟨rfl, whole⟩, ?_, hist, issues⟩
  simp [record, parserRecord, phyTestBytes, zeroSirq, custom]

end Sys2Proof.Machine
end

section
/-! PROOFS. O11, O12 and O16: validation of a host transfer's request, and the transfers that issue nothing (spec/40_aux_engine.md
R120 to R127, R147). -/

namespace Sys2Proof.Machine

open Sys2Proof

/-! ### Validation (R121 to R125, R147) -/

theorem rw_cases (rw : BitVec 2) : rw = 0#2 ∨ rw = 1#2 ∨ rw = 2#2 ∨ rw = 3#2 := by
  revert rw
  decide

/-- The checks one by one: the direction, the size bound, MOT on a native request, an empty native request, and data of a request
that carries none (R121 to R125). -/
theorem validRw_eq_none_iff (q : Request) :
    validRw q = none ↔ q.rw = 3 ∨ 16#8 < q.size ∨ (q.isI2c = false ∧ q.isMot = true) ∨ (q.isI2c = false ∧ q.size = 0) ∨
      ((q.rw = 2 ∨ (q.isI2c = true ∧ q.isMot = false)) ∧ 0#8 < q.size) := by
  have data : 0#8 < q.size ↔ q.size ≠ 0#8 := BitVec.pos_iff_ne_zero ..
  obtain h | h | h | h := rw_cases q.rw <;>
    simp [validRw, rwOf, h, Config.auxMaxSize, data, or_iff_not_imp_left, and_assoc]

/-- Settles O12: for each direction and each setting of the flags, the checks leave the sizes that the table lists. -/
theorem acceptedShapes : Obligations.AcceptedShapes := by
  rintro ⟨isI2c, isMot, rw, addr, size⟩
  rw [Bool.eq_iff_iff, Option.isSome_iff_ne_none, ne_eq, validRw_eq_none_iff]
  have carries : 1#8 ≤ size ↔ ¬ size = 0#8 := by bv_omega
  have empty : ¬ 0#8 < size ↔ size = 0#8 := by bv_omega
  have small : ¬ 16#8 < size ↔ size ≤ 16#8 := BitVec.not_lt
  obtain rfl | rfl | rfl | rfl := rw_cases rw <;> cases isI2c <;> cases isMot <;>
    simp +contextual [acceptedShape, carries, empty, small, and_comm]

/-- A request of an accepted shape passes validation in its direction. -/
theorem validRw_of_shape {q : Request} {rw : Rw} (shape : acceptedShape q = true) (code : rwOf q.rw = some rw) :
    validRw q = some rw := by
  rw [← acceptedShapes, Option.isSome_iff_exists] at shape
  obtain ⟨rw', valid⟩ := shape
  obtain rfl : rw' = rw := Option.some.inj ((validRw_some valid).1.symm.trans code)
  exact valid

/-! ### Transfers that issue nothing (R125, R127, R255) -/

section
variable {i : Instr} {q : Request} {s : State} (request : auxRequestOf i = some q)
include request

/-- A transfer whose issue faults stops with the fault's mark (R255). -/
theorem exec_hostIssue_halted {f : Fault}
    (halts : hostIssue q (log (.cmdStart 0x01) s.blk) = halted f (log (.cmdStart 0x01) s.blk)) :
    exec i s = .next { s with blk := raise f (log (.cmdStart 0x01) s.blk) } := by
  rw [exec_eq, codeOf_auxRequest request, opcodeOf_auxRequest request]
  simp only [runCommand, transferCode, block, runCode, runAct, halts, halted]

/-- A request that fails validation ends the command (R121 to R125, R134). -/
theorem exec_invalid (invalid : validRw q = none) :
    exec i s = .next { s with blk := completed 0x01 .invalidArgument { s.blk with port.resPayload := 0 } } := by
  rw [exec_eq, codeOf_auxRequest request, opcodeOf_auxRequest request]
  simp [runCommand, transferCode, block, runCode, runAct, hostIssue, invalid, returning, endCommand, log, completed]

end

/-- Settles O11: a request that fails a check has no valid direction, and the command ends at its first micro-step. -/
theorem rejectedRequests : Obligations.RejectedRequests := fun _ q _ request fails =>
  ⟨_, exec_invalid request ((validRw_eq_none_iff q).2 fails), rfl⟩

/-- A byte that the host has not written makes the bytes of a write unready (R127). -/
theorem hbufReady_of_unwritten {p : HostRegs} {n : Nat} {k : Fin 16} (hk : k.val < n) (unwritten : p.hbufWritten[k] = false) :
    hbufReady p n = false := by
  rw [hbufReady, List.all_eq_false]
  refine ⟨false, List.mem_of_getElem? (i := k.val) ?_, nofun⟩
  rw [List.getElem?_take_of_lt hk]
  simpa using unwritten

/-- Settles O16: the issue itself raises the fault, after the command's acceptance. -/
theorem transferFaults : Obligations.TransferFaults := by
  intro i q rw s request valid
  constructor
  · rintro ⟨rfl, k, hk, unwritten⟩
    refine exec_hostIssue_halted (s := s) (f := .unwrittenRead) request ?_
    simp [hostIssue, valid, hbufReady_of_unwritten hk unwritten]
  · intro wait written
    refine exec_hostIssue_halted (s := s) (f := .overlappingTransfer) request ?_
    rw [hostIssue_issues (b := log _ s.blk) ⟨valid, fun write => hbufReady_of_written (written write)⟩]
    exact auxIssue_wait wait

end Sys2Proof.Machine
end

section
/-! PROOFS. O13, O14, O15 and O17: a host transfer that issues, with no service between (spec/40_aux_engine.md R126 to R146). -/

namespace Sys2Proof.Machine

open Sys2Proof

/-! ### The result of an answer (R129 to R135) -/

/-- Settles O15: the payload of the table is the classified one, and the checks come in the rules' order. -/
theorem replyResults : Obligations.ReplyResults := by
  intro q r d payload
  have classified : classify r q.rw q.size = payload := by
    simp only [payload, classify, Bool.or_eq_true, decide_eq_true_eq, apply_ite some]
    cases q.rw <;> rfl
  clear_value payload
  by_cases wrong : r.errStatus ≠ 0 ∨ r.replyReceived = false
  · have error : replyError r = true := by simpa [replyError] using wrong
    rw [if_pos wrong]
    exact xferResult_rejected (by simp [acceptedPayload, error])
  have fine : replyError r = false := by simpa [replyError] using wrong
  rw [if_neg wrong]
  cases payload with
  | none => exact xferResult_rejected (by simp [acceptedPayload, fine, classified])
  | some p =>
    by_cases above : q.size < p
    · exact (xferResult_rejected (by simp [acceptedPayload, fine, classified, above])).trans (if_pos above).symm
    · exact (xferResult_accepted (by simp [acceptedPayload, fine, classified, above])).trans (if_neg above).symm

/-- A transfer is logged where its final reply type is not ACK, by a classified reply or by the wait's expiry (R135). -/
theorem logsNonAck_xferResult_iff (q : ReqReg) (a : AuxAnswer) :
    logsNonAck (xferResult q a) = true ↔
      (xferResult q a).reply ≠ 0x0 ∧ ((xferResult q a).status = .ok ∨ (xferResult q a).status = .timeout) := by
  have status :
      (xferResult q a).status ≠ .protocolError ↔ (xferResult q a).status = .ok ∨ (xferResult q a).status = .timeout := by
    cases a with
    | timedOut => simp [xferResult]
    | reply r d =>
      cases p : acceptedPayload r q.rw q.size with
      | none => simp [xferResult_rejected p]
      | some n => simp [xferResult_accepted p]
  simp [logsNonAck, ack, ← status, and_comm]

/-! ### What a transfer leaves (R126 to R135) -/

theorem hostAnswer_cons {q : Request} {rw : Rw} {b : Block} {a : AuxAnswer} {rest : List AuxAnswer}
    (answers : b.env.aux = a :: rest) : (hostAnswer q rw b).1 = a := by
  rw [hostAnswer, nextAux_cons answers]

/-- The engine's registers after a whole transfer: its request, the bytes sent, and what the answer leaves (R126 to R129). -/
def transferredAux (q : Request) (rw : Rw) (b : Block) : AuxRegs := (takeAnswer (hostAnswer q rw b).1 (hostIssued q rw b)).aux

section
variable {q : Request} {rw : Rw} {b : Block} (idle : b.aux.fsm = .idle)
include idle

/-- All that a transfer that issues changes, and in which order its events come (R14, R251). -/
theorem transferred_eq :
    transferred q rw b =
      let a := (hostAnswer q rw b).1
      let x := xferResult (format q rw) a
      let aux := transferredAux q rw b
      { b with
        aux := aux
        port := { b.port with
          hbuf := b.port.hbuf.put x.data
          resStatus := x.status.code
          resReply := x.reply
          resPayload := x.payload }
        train := { b.train with micro := none }
        hist := b.hist ++
          ([.cmdStart 0x01, .auxIssue (format q rw).word (format q rw).addrOnly (sentBytes rw q.size b.port.hbuf),
            answerEvent a] ++
          (if logsNonAck x then [.log (.nonAck aux.req aux.reply aux.replyValid)] else []) ++ [.cmdEnd x.status])
        loc := { b.loc with st := x.status, ret := x.status }
        env := (hostAnswer q rw b).2 } := by
  rw [transferred, hostComplete_hostIssued idle, transferredAux, hostIssued, auxIssue_idle (b := log _ b) idle]
  generalize hostAnswer q rw b = answer
  obtain ⟨a, env⟩ := answer
  cases logs : logsNonAck (xferResult (format q rw) a) <;> cases a <;>
    simp [logXfer, logs, takeAnswer, answerEvent, hostResult, returning, endCommand, log]

theorem transferredAux_req : (transferredAux q rw b).req = format q rw := (takeAnswer_req _ _).trans (hostIssued_req idle)
theorem transferredAux_wdata : (transferredAux q rw b).wdata = sentData q rw b :=
  (takeAnswer_wdata _ _).trans (hostIssued_wdata idle)

/-- The reply registers hold the reply; the wait's expiry leaves them, and only takes the mark of a valid reply (R128, R129). -/
theorem transferredAux_reply :
    (transferredAux q rw b).completion = false ∧
      match (hostAnswer q rw b).1 with
      | .reply r d =>
        (transferredAux q rw b).reply = r ∧ (transferredAux q rw b).rdata = d ∧ (transferredAux q rw b).replyValid = true
      | .timedOut =>
        (transferredAux q rw b).reply = b.aux.reply ∧ (transferredAux q rw b).rdata = b.aux.rdata ∧
          (transferredAux q rw b).replyValid = false := by
  rw [transferredAux, hostIssued, auxIssue_idle (b := log _ b) idle]
  cases (hostAnswer q rw b).1 <;> exact ⟨rfl, rfl, rfl, rfl⟩

end

/-- `WDATA` holds the bytes that a write sends, and where nothing is sent what it held (R127). -/
theorem sentData_get {q : Request} {rw : Rw} (high : q.size ≤ 16#8) (b : Block) (k : Fin 16) :
    (sentData q rw b)[k] = if rw = .write ∧ k.val < q.size.toNat then b.port.hbuf[k] else b.aux.wdata[k] := by
  rw [sentData, Fin.getElem_fin, Buf.put_get]
  by_cases write : rw = .write
  · by_cases sent : k.val < q.size.toNat
    · simp [sentBytes, write, sent, Buf.first_get? b.port.hbuf sent k.isLt]
    · have beyond : (b.port.hbuf.first q.size.toNat)[k.val]? = none :=
        List.getElem?_eq_none (by rw [Buf.first_length b.port.hbuf high]; omega)
      simp [sentBytes, write, sent, beyond]
  · simp [sentBytes, write]

/-- A valid transfer whose bytes are written issues. -/
theorem issues_of_valid {q : Request} {rw : Rw} {p : HostRegs} (valid : validRw q = some rw)
    (written : rw = .write → ∀ k : Fin 16, k.val < q.size.toNat → p.hbufWritten[k] = true) : Issues q rw p :=
  ⟨valid, fun write => hbufReady_of_written (written write)⟩

/-- Settles O13: the transfer runs to its end, and each register is what `transferred_eq` says. -/
theorem transferCompletes : Obligations.TransferCompletes := by
  intro i q rw a rest s request shape code idle quiet answers written x
  have valid := validRw_of_shape shape code
  have answer := hostAnswer_cons (q := q) (rw := rw) answers
  have eq := transferred_eq (q := q) (rw := rw) idle
  obtain ⟨completion, reply⟩ := transferredAux_reply (q := q) (rw := rw) idle
  rw [answer] at reply
  simp only [answer, logsNonAck_xferResult_iff] at eq
  refine ⟨_, exec_transferred request idle quiet (issues_of_valid valid written), ?_⟩
  rw [eq]
  exact ⟨takeAnswer_fsm _ _, completion, transferredAux_req idle,
    fun k => by rw [transferredAux_wdata idle]; exact sentData_get (validRw_some valid).2.1 s.blk k,
    fun k => Buf.put_get _ _ k k.isLt, rfl, rfl, rfl, ⟨rfl, rfl, rfl⟩, reply, rfl, rfl, rfl, rfl, rfl, rfl, rfl, rfl, rfl⟩

/-- Settles O14. -/
theorem timeoutResult : Obligations.TimeoutResult := by
  intro i q rw rest s request valid idle quiet answers written
  have answer := hostAnswer_cons (q := q) (rw := rw) answers
  have eq := transferred_eq (q := q) (rw := rw) idle
  obtain ⟨-, reply⟩ := transferredAux_reply (q := q) (rw := rw) idle
  rw [answer] at eq reply
  obtain ⟨kept, -, -⟩ := reply
  refine ⟨_, exec_transferred request idle quiet (issues_of_valid valid written), ?_⟩
  rw [eq]
  exact ⟨rfl, rfl, rfl, Buf.put_nil _, kept⟩

/-- Settles O17: of the events of a transfer only its issue and its answer are such. -/
theorem transferIo : Obligations.TransferIo := by
  intro i q rw s request valid idle quiet written
  have run := exec_transferred request idle quiet (issues_of_valid valid written)
  refine ⟨_, _, run, congrArg Block.hist (transferred_eq idle), ?_⟩
  generalize (hostAnswer q rw s.blk).1 = a
  split <;> cases a <;> exact ⟨rfl, rfl⟩

end Sys2Proof.Machine
end

section
/-! PROOFS. O23: a checked access with known answers, with its retries (spec/40_aux_engine.md R149 to R152). -/

namespace Sys2Proof.Machine

open Sys2Proof

/-- The block after one transaction of a wrapper, with this answer and these to come (R149 to R151). -/
def transacted (a : Access) (x : AuxAnswer) (as : List AuxAnswer) (b : Block) : Block :=
  accessResult a (a.result x) (answered a x as b)

section
variable (a : Access) (x : AuxAnswer) (as : List AuxAnswer) (b : Block)

theorem transacted_defer : (transacted a x as b).loc.defer = true ↔ Defers x := by
  rw [transacted, accessResult_defer, Access.result, deferred_xferResult_iff]

theorem transacted_ok : (transacted a x as b).loc.ok = true ↔ WholeAck a x := by
  rw [transacted, accessResult_ok, succeeded_result_iff]

/-- The issue of the access (R82, R83, R126). -/
theorem issueEvent_eq :
    a.issueEvent b = .auxIssue ((if a.isWrite then 0x8#4 else 0x9#4) ++ a.addr ++ (a.size - 1)) false (a.data b) := by
  have len : lenOf a.size = a.size - 1 := if_neg (by cases a <;> simp [Access.size])
  have cmd : cmdOf false false a.rw = if a.isWrite then 0x8#4 else 0x9#4 := by
    unfold Access.rw
    cases a.isWrite <;> decide
  rw [← cmd, ← len]
  rfl

end

/-- A whole read has put its bytes into `IBUF` (R133, R150). -/
theorem transacted_ibuf {a : Access} {r : ReplyStatus} {d : Buf} (read : a.isWrite = false) (whole : WholeAck a (.reply r d))
    (as : List AuxAnswer) (b : Block) {k : Fin 16} (hk : k.val < a.size.toNat) :
    (transacted a (.reply r d) as b).ibuf[k] = d[k] := by
  have kept (c : Block) : (a.store c).ibuf = c.ibuf := by cases a <;> rfl
  rw [transacted, accessResult_whole whole, kept, result_data read whole]
  exact Buf.put_first_get _ d hk k.isLt

/-- The bytes that an access sends are formed from the training registers and the vector byte. -/
theorem data_congr {a : Access} {b c : Block} (train : c.train = b.train) (v : c.loc.v = b.loc.v) : a.data c = a.data b := by
  cases a <;> simp [Access.data, train, v]

section
variable {a : Access} {b : Block} {x : AuxAnswer} {as : List AuxAnswer} (idle : b.aux.fsm = .idle)
include idle

/-- A transaction leaves the bytes that the access sends: a read sends none, and a write stores nothing (R150, R151). -/
theorem transacted_data : a.data (transacted a x as b) = a.data b := by
  cases write : a.isWrite with
  | false => rw [a.data_read _ write, a.data_read _ write]
  | true =>
    have stored (c : Block) : a.store c = c := by cases a <;> simp_all [Access.isWrite, Access.store]
    refine data_congr ?_ ?_
    · simp [transacted, accessResult, stored, answered, issued_train idle]
    · simp [transacted, accessResult, stored, answered_loc a x as idle]

theorem transacted_quiet (quiet : Quiet b) : Quiet (transacted a x as b) := by
  simpa [Quiet, transacted, accessResult_svc, accessResult_env] using answered_quiet a x as idle quiet

/-- A transaction makes one issue (R150, R151). -/
theorem transacted_hist :
    ∃ d, (transacted a x as b).hist = b.hist ++ d ∧ d.filter Event.isIssue = [a.issueEvent b] := by
  obtain ⟨l, hist, log, -⟩ := answered_hist a x as idle
  have noIssue : l.filter Event.isIssue = [] := List.filter_eq_nil_iff.2 fun e he => by simp [isIssue_of_not_isStep (log e he)]
  have issue : (a.issueEvent b).isIssue = true := rfl
  have answer : (answerEvent x).isIssue = false := by cases x <;> rfl
  exact ⟨_, by rw [transacted, accessResult_hist, hist, List.append_assoc], by simp [issue, answer, noIssue]⟩

variable (answers : b.env.aux = x :: as)
include answers

theorem accessComplete_issued : accessComplete a (issued a b) = transacted a x as b := by
  rw [accessComplete, auxComplete_wait (issued_fsm idle), nextAux_cons (by rw [issued_env idle, answers]), issued_req idle]
  simp [transacted, answered, Access.result, issued_req idle]

theorem transacted_fsm : (transacted a x as b).aux.fsm = .idle := by
  rw [← accessComplete_issued idle answers]
  exact accessComplete_fsm a _

theorem transacted_faults : (transacted a x as b).faults = b.faults := by
  rw [← accessComplete_issued idle answers]
  exact ((accessIssue_keeps idle).2.1.trans (accessComplete_keeps a _).1).faults

/-- One transaction with a known answer, where no service comes between. -/
theorem accessOnce_answered (quiet : Quiet b) : accessOnce boundary a b = (.norm, transacted a x as b) := by
  have quiet' : Quiet (issued a b) := by rwa [Quiet, issued_svc idle, issued_env idle]
  have issue : runAct (.issue a) b = (.norm, issued a b) := Prod.ext (accessIssue_keeps idle).1 rfl
  rw [accessOnce, boundary_quiet quiet, issue]
  simp only [boundary_quiet quiet', runAct, accessComplete_issued idle answers]

end

/-- An access from `b` has made `n` transactions, each with the same request, and stands at `c` with these answers to come. -/
structure Tried (a : Access) (b : Block) (n : Nat) (as : List AuxAnswer) (c : Block) : Prop where
  idle : c.aux.fsm = .idle
  quiet : Quiet c
  answers : c.env.aux = as
  faults : c.faults = b.faults
  data : a.data c = a.data b
  hist : ∃ d, c.hist = b.hist ++ d ∧ d.filter Event.isIssue = List.replicate n (a.issueEvent b)

section
variable {a : Access} {b c : Block} {n : Nat} {x : AuxAnswer} {as : List AuxAnswer}

theorem Tried.start (idle : b.aux.fsm = .idle) (quiet : Quiet b) (answers : b.env.aux = as) : Tried a b 0 as b :=
  ⟨idle, quiet, answers, rfl, rfl, [], by simp, rfl⟩

theorem Tried.again (h : Tried a b n (x :: as) c) : Tried a b (n + 1) as (transacted a x as c) := by
  obtain ⟨idle, quiet, answers, faults, data, d, hist, issues⟩ := h
  obtain ⟨d', hist', issues'⟩ := transacted_hist (a := a) (x := x) (as := as) idle
  have same : a.issueEvent c = a.issueEvent b := by rw [issueEvent_eq, issueEvent_eq, data]
  exact {
    idle := transacted_fsm idle answers
    quiet := transacted_quiet idle quiet
    answers := by rw [transacted, accessResult_env, answered_envAux]
    faults := (transacted_faults idle answers).trans faults
    data := (transacted_data idle).trans data
    hist := ⟨d ++ d', by rw [hist', hist, List.append_assoc],
      by rw [List.filter_append, issues, issues', same, List.replicate_succ']⟩ }

theorem Tried.retry_succ (h : Tried a b n (x :: as) c) (m : Nat) :
    accessRetry boundary a (m + 1) c =
      if (transacted a x as c).loc.defer then accessRetry boundary a m (transacted a x as c)
      else (.norm, transacted a x as c) := by
  rw [accessRetry, accessOnce_answered h.idle h.answers h.quiet]

/-- With at most `m + 1` transactions to make: each answer of `ds` defers and brings the next, and the answer after them ends the
access, where it does not defer or is that of the last transaction (R149). -/
theorem Tried.retries {f : AuxAnswer} {rest ds : List AuxAnswer} (m : Nat) (tried : Tried a b n (ds ++ f :: rest) c)
    (defers : ∀ x ∈ ds, Defers x) (bound : ds.length ≤ m) (last : ¬ Defers f ∨ ds.length = m) :
    ∃ e, accessRetry boundary a (m + 1) c = (.norm, transacted a f rest e) ∧ Tried a b (n + ds.length) (f :: rest) e := by
  induction ds generalizing n m c with
  | nil =>
    refine ⟨c, ?_, tried⟩
    rw [tried.retry_succ]
    obtain ends | rfl := last
    · rw [if_neg ((transacted_defer ..).not.2 ends)]
    · exact ite_self _
  | cons x ds ih =>
    cases m with
    | zero => cases bound
    | succ m =>
      obtain ⟨e, run, tried'⟩ := ih m tried.again (fun y hy => defers y (.tail _ hy)) (Nat.le_of_succ_le_succ bound)
        (last.imp_right Nat.succ.inj)
      refine ⟨e, ?_, ?_⟩
      · rw [tried.retry_succ, if_pos ((transacted_defer ..).2 (defers x (.head _)))]
        exact run
      · rwa [List.length_cons, Nat.add_comm ds.length, ← Nat.add_assoc]

end

/-- Settles O23: the access is its first transaction and the retries; the last transaction decides. -/
theorem checkedAccess : Obligations.CheckedAccess := by
  intro a b ds f rest idle quiet answers defers bound last
  obtain ⟨e, run, tried⟩ := (Tried.start idle quiet answers).retries Config.deferRetryMax defers bound last
  obtain ⟨idle', -, answers', faults, -, d, hist, issues⟩ := tried.again
  refine ⟨_, d, run, idle', answers', faults, transacted_ok a f rest e, hist, ?_, ?_⟩
  · rw [issues, issueEvent_eq, Nat.zero_add]
  · rintro read whole r dt rfl k hk
    exact transacted_ibuf read whole rest e hk

end Sys2Proof.Machine
end

section
/-! PROOFS. O19 and O22: the reads of the parameter store, and the commands that their guard refuses (spec/41_phy_param_store.md R171,
R172, R176; spec/42_link_training.md R190; spec/60_exceptions.md R251, R255). -/

namespace Sys2Proof.Machine

open Sys2Proof

/-! ### A command behind its guard (R172, R176, R190) -/

section
variable {i : Instr} {t : Test} {c d : Code} {s : State} (code : codeOf i = .cond t c d)
include code

theorem exec_guard_met (met : evalTest t (log (.cmdStart (opcodeOf i)) s.blk) = true) :
    exec i s = runCommand (opcodeOf i) c s := by
  simp only [exec_eq, code, runCommand, runCode, met, if_true]

theorem exec_guard_failed (failed : evalTest t (log (.cmdStart (opcodeOf i)) s.blk) = false) :
    exec i s = runCommand (opcodeOf i) d s := by
  simp only [exec_eq, code, runCommand, runCode, failed, Bool.false_eq_true, if_false]

end

/-- A fault at a command's first step leaves the acceptance and the mark (R251, R255). -/
theorem runCommand_fault (opc : Byte) (f : Fault) (s : State) :
    runCommand opc (.fault f) s = .next { s with blk := raise f (log (.cmdStart opc) s.blk) } := rfl

/-! ### The reads of the store (R171, R172) -/

theorem endCommand_returning_log (opc : Byte) (st : Status) (b : Block) :
    endCommand (returning st (log (.cmdStart opc) b)).2 = completed opc st b := by
  simp [endCommand, returning, log, completed]

/-- A command that is one internal update runs at once: its only micro-step has no boundary before it (R251). -/
theorem runCommand_update {opc : Byte} {u : Update} {s : State} (st : Status)
    (silent : runUpdate u (log (.cmdStart opc) s.blk) = log (.cmdStart opc) (runUpdate u s.blk)) :
    runCommand opc (block [.first (.upd u), .ret st]) s = .next { s with blk := completed opc st (runUpdate u s.blk) } := by
  rw [← endCommand_returning_log, ← silent]
  rfl

/-- Settles O19: each command is one update, `PARAM.SESSION` when its guard finds no session. -/
theorem paramGetAndSession : Obligations.ParamGetAndSession := by
  intro s
  constructor
  · exact (exec_eq .paramGet s).trans (runCommand_update .ok rfl)
  · intro between
    rw [exec_guard_met (i := .paramSession) rfl (List.contains_iff_mem.2 between)]
    exact runCommand_update .ok rfl

/-! ### The commands that fault (R172, R176, R190) -/

/-- `PARAM.SET` and `SIGTAB.SET` are guarded by the lock (R176). -/
theorem codeOf_configWrite {i : Instr} (write : (∃ f v, i = .paramSet f v) ∨ ∃ r w p a b c, i = .sigtabSet r w p a b c) :
    ∃ c, codeOf i = .cond .unlocked c (.fault .configWriteAfterUse) := by
  obtain ⟨f, v, rfl⟩ | ⟨r, w, p, a, b, c, rfl⟩ := write
  · exact ⟨_, rfl⟩
  · exact ⟨_, rfl⟩

/-- Every training command but `TRAIN.DONE 0` is guarded, and its guard admits only phases that list it (R190). -/
theorem codeOf_training {i : Instr} (training : isTraining i = true) (guarded : i ≠ .trainDone false) :
    ∃ ps c, codeOf i = .cond (.phaseIn ps) c (.fault .sequenceViolation) ∧ ∀ ph ∈ ps, i ∈ legalTraining ph := by
  cases i with
  | trainStart => exact ⟨_, _, rfl, by decide⟩
  | trainInit => exact ⟨_, _, rfl, by decide⟩
  | trainCr => exact ⟨_, _, rfl, by decide⟩
  | trainEq => exact ⟨_, _, rfl, by decide⟩
  | trainDone success =>
    obtain rfl : success = true := by simpa using guarded
    exact ⟨_, _, rfl, by decide⟩
  | _ => simp [isTraining] at training

/-- `TRAIN.DONE 0` is legal in every phase (R190). -/
theorem trainDone_false_legal (ph : Phase) : .trainDone false ∈ legalTraining ph := by
  cases ph <;> decide

/-- A training command, or `PARAM.SESSION`, in a phase that does not list it has a guard that does not admit the phase (R172, R190). -/
theorem codeOf_outOfPhase {i : Instr} {ph : Phase}
    (outside : (isTraining i = true ∧ i ∉ legalTraining ph) ∨ (i = .paramSession ∧ ph ∉ [Phase.idle, .done, .failed])) :
    ∃ ps c, codeOf i = .cond (.phaseIn ps) c (.fault .sequenceViolation) ∧ ph ∉ ps := by
  obtain ⟨training, illegal⟩ | ⟨rfl, session⟩ := outside
  · obtain ⟨ps, c, code, admits⟩ := codeOf_training training (by rintro rfl; exact illegal (trainDone_false_legal ph))
    exact ⟨ps, c, code, fun mem => illegal (admits ph mem)⟩
  · exact ⟨_, _, rfl, session⟩

/-- Settles O22: the guard fails, and what the command runs instead is the fault. -/
theorem lockAndSequenceFaults : Obligations.LockAndSequenceFaults := by
  intro i s
  constructor
  · intro write locked
    obtain ⟨c, code⟩ := codeOf_configWrite write
    rw [exec_guard_failed code (by simp [evalTest, locked]), runCommand_fault]
    rfl
  · intro outside
    obtain ⟨ps, c, code, unlisted⟩ := codeOf_outOfPhase outside
    rw [exec_guard_failed code (by simpa [evalTest] using unlisted), runCommand_fault]
    rfl

end Sys2Proof.Machine
end

section
/-! PROOFS. O39, O40 and O42: what the training commands leave of the training registers and the shadows, in every state and whatever
the agents do (spec/42_link_training.md R192, R201, R210, R219, R225). -/

namespace Sys2Proof.Machine

open Sys2Proof

/-! ### What no micro-step of a command writes -/

/-- What `f` reads of the training registers and the shadows is untouched by the micro-steps of `p`. -/
structure Untouched {α : Type} (p : Act → Bool) (f : TrainRegs → PhyRegs → α) : Prop where
  micro : ∀ t q m, f { t with micro := m } q = f t q
  complete : ∀ a b c, p (.complete a) = true → AccessKeeps a b c → f c.train c.phy = f b.train b.phy
  phy : ∀ c b busy, p (.phy c) = true → f b.train ((c.command b).shadow busy b.phy) = f b.train b.phy
  upd : ∀ u b, p (.upd u) = true → f (runUpdate u b).train b.phy = f b.train b.phy

theorem accessIssue_train (a : Access) (b : Block) : (accessIssue a b).2.train = b.train := by
  cases h : b.aux.fsm with
  | idle => rw [accessIssue_idle h, auxIssue_idle h]; rfl
  | wait => rw [accessIssue, auxIssue_wait h]; rfl

theorem runUpdate_phy (u : Update) (b : Block) : (runUpdate u b).phy = b.phy := by cases u <;> rfl

section
variable {α : Type} {p : Act → Bool} {f : TrainRegs → PhyRegs → α}

theorem Untouched.runAct (U : Untouched p f) {a : Act} (ha : p a = true) (b : Block) :
    f (runAct a b).2.train (runAct a b).2.phy = f b.train b.phy := by
  have transfer {c : Block} (keeps : TransferKeeps False b c) : f c.train c.phy = f b.train b.phy := by
    rw [keeps.train, keeps.phy, U.micro]
  cases a with
  | hostIssue q => exact transfer (hostIssue_keeps nofun b)
  | hostComplete => exact transfer (hostComplete_keeps b)
  | issue a => rw [Machine.runAct, accessIssue_train, (accessIssue_accessKeeps a b).phy]
  | complete a => exact U.complete a b _ ha (accessComplete_keeps a b).2
  | phy c => rw [Machine.runAct, phyAct_train, phyAct_phy, U.phy c b _ ha]
  | delay l => rfl
  | upd u => rw [Machine.runAct, runUpdate_phy, U.upd u b ha]

theorem Untouched.carries (U : Untouched p f) : Carries p fun a b => f b.train b.phy = f a.train a.phy where
  refl _ := rfl
  trans _ _ _ h k := k.trans h
  act _ := U.runAct
  mark m b := U.micro b.train b.phy m
  returning _ _ := rfl
  raise _ _ := rfl

/-- A command leaves what its micro-steps leave. -/
theorem Untouched.exec (U : Untouched p f) {i : Instr} {s t : State} (only : (codeOf i).only p = true)
    (ran : exec i s = .next t) : f t.blk.train t.blk.phy = f s.blk.train s.blk.phy :=
  U.carries.exec (fun b => by rw [boundary_train, boundary_phy]) (fun _ _ => rfl) (fun b => U.micro b.train b.phy none) only ran

end

/-! ### `TRAIN.INIT` (R192) -/

/-- The micro-steps of `Init()`. -/
def Act.ofInit : Act → Bool
  | .issue _ => true
  | .complete a => a != .linkStatus
  | .phy .framing => true
  | .phy .xmitActive => true
  | .upd .initBegin => true
  | .upd .seedStatus => true
  | .upd .selectEq => true
  | .upd (.setPhase _) => true
  | _ => false

/-- What `TRAIN.INIT` leaves, of the shadows all but two. -/
def initFrame (t : TrainRegs) (q : PhyRegs) : Byte × Byte × Vector Byte 6 × LinkPhyStatus × PhyRegs :=
  (t.retry, t.notUpdated, t.lstat, t.result, { q with framing := .unknown, xmitMask := .unknown })

theorem initFrame_untouched : Untouched Act.ofInit initFrame where
  micro _ _ _ := rfl
  complete a b c ha keeps := by
    have other : a ≠ .linkStatus := by simpa [Act.ofInit] using ha
    rw [initFrame, keeps.lstat other, keeps.phy, keeps.train]
    rfl
  phy c b busy hc := by
    cases c with
    | framing => rfl
    | xmitActive => rfl
    | _ => cases hc
  upd u b hu := by
    cases u with
    | initBegin => rfl
    | seedStatus => rfl
    | selectEq => rfl
    | setPhase => rfl
    | _ => cases hu

/-! ### `TRAIN.CR` and `TRAIN.EQ` (R201, R210) -/

/-- The micro-steps of `Eq()`; with `entry`, those of `Cr()`. -/
def Act.ofPhase (entry : Bool) : Act → Bool
  | .issue _ => true
  | .complete a => a != .capability
  | .delay _ => true
  | .phy .linkRate => entry
  | .phy .xmitActive => entry
  | .phy (.pattern _) => true
  | .phy .patternEq => true
  | .phy (.driveLane _) => true
  | .upd (.setPhase _) => true
  | .upd .clearCounters => true
  | .upd .adjust => true
  | .upd .countRetry => true
  | .upd .fallback => true
  | _ => false

/-- The negotiated values, with everything else of the status left out. -/
def negotiated (st : LinkPhyStatus) : BitVec 32 × BitVec 32 × Bool := (st.mbps, st.khz, st.fecActive)

/-- What `TRAIN.CR` and `TRAIN.EQ` leave, of the shadows all but five. -/
def phaseFrame (t : TrainRegs) (q : PhyRegs) :
    LinkPhyParam × Buf × Tps × Bool × LinkPhyStatus × (BitVec 32 × BitVec 32 × Bool) × PhyRegs :=
  (t.sessionParam, t.cap, t.eqTps, t.resultValid, t.result, negotiated t.status,
    { q with lanes := .unknown, rate := .unknown, xmitMask := .unknown, pattern := .unknown, drive := Vector.replicate 4 .unknown })

theorem phaseFrame_untouched : Untouched (Act.ofPhase true) phaseFrame where
  micro _ _ _ := rfl
  complete a b c ha keeps := by
    have other : a ≠ .capability := by simpa [Act.ofPhase] using ha
    rw [phaseFrame, keeps.cap other, keeps.phy, keeps.train]
    rfl
  phy c b busy hc := by
    cases c with
    | linkRate => cases busy <;> rfl
    | xmitActive => rfl
    | pattern => rfl
    | patternEq => rfl
    | driveLane => rfl
    | _ => cases hc
  upd u b hu := by
    cases u with
    | setPhase => rfl
    | clearCounters => rfl
    | adjust => rfl
    | countRetry => rfl
    | fallback =>
      obtain ⟨-, eq⟩ | ⟨n, -, -, eq⟩ | ⟨-, -, eq⟩ := fallback_cases b.train <;> rw [runUpdate, eq] <;> rfl
    | _ => cases hu

/-- What `TRAIN.EQ` leaves besides. -/
def eqFrame (_ : TrainRegs) (q : PhyRegs) : Shadow LaneCount × Shadow (BitVec 2) × Shadow (BitVec 4) :=
  (q.lanes, q.rate, q.xmitMask)

theorem eqFrame_untouched : Untouched (Act.ofPhase false) eqFrame where
  micro _ _ _ := rfl
  complete a b c _ keeps := by rw [keeps.phy]; rfl
  phy c b busy hc := by
    cases c with
    | pattern => rfl
    | patternEq => rfl
    | driveLane => rfl
    | _ => cases hc
  upd _ _ _ := rfl

/-- Settles O40: none of the micro-steps of the three commands writes what the frame holds. -/
theorem stepFrames : Obligations.StepFrames := by
  refine ⟨fun s b ran => ?_, fun i s b command ran => ?_⟩
  · have frame := initFrame_untouched.exec (i := .trainInit) rfl ran
    simp only [initFrame, Prod.mk.injEq] at frame
    obtain ⟨retry, notUpdated, lstat, result, phy⟩ := frame
    exact ⟨retry, notUpdated, lstat, result,
      congrArg (fun q : PhyRegs => { q with framing := b.phy.framing, xmitMask := b.phy.xmitMask }) phy⟩
  · have only : (codeOf i).only (Act.ofPhase true) = true := by obtain rfl | rfl := command <;> rfl
    have frame := phaseFrame_untouched.exec only ran
    simp only [phaseFrame, negotiated, Prod.mk.injEq] at frame
    obtain ⟨param, cap, eqTps, valid, result, ⟨mbps, khz, fec⟩, phy⟩ := frame
    refine ⟨param, cap, eqTps, valid, result, mbps, khz, fec, ?_, ?_⟩
    · exact congrArg (fun q : PhyRegs => { q with
        lanes := b.phy.lanes, rate := b.phy.rate, xmitMask := b.phy.xmitMask, pattern := b.phy.pattern, drive := b.phy.drive }) phy
    · rintro rfl
      have frame := eqFrame_untouched.exec (i := .trainEq) rfl ran
      simpa only [eqFrame, Prod.mk.injEq] using frame

/-! ### `TRAIN.DONE` (R219) -/

/-- The micro-steps of `Completed(success)`. -/
def Act.ofDone (success : Bool) : Act → Bool
  | .issue _ => true
  | .complete a => a != .capability && a != .linkStatus
  | .delay _ => true
  | .phy (.pattern _) => true
  | .phy .videoOff => true
  | .phy .xmitOff => !success
  | .phy (.powerDown _) => !success
  | .phy (.fec _) => success
  | .upd .failSession => !success
  | .upd .fecBegin => success
  | .upd (.fecActive _) => success
  | .upd .fecGiveUp => success
  | .upd .negotiate => success
  | .upd .recordResult => success
  | _ => false

theorem codeOf_trainDone_only (success : Bool) : (codeOf (.trainDone success)).only (Act.ofDone success) = true := by
  cases success <;> rfl

theorem AccessKeeps.train_ofDone {success : Bool} {a : Access} {b c : Block} (ha : (Act.complete a).ofDone success = true)
    (keeps : AccessKeeps a b c) : c.train = b.train := by
  simp only [Act.ofDone, Bool.and_eq_true, bne_iff_ne] at ha
  exact keeps.train_eq ha.1 ha.2

/-- What `TRAIN.DONE` leaves, of the training registers all but the phase, the result and the negotiated values. -/
def completionFrame (t : TrainRegs) (q : PhyRegs) :
    TrainRegs × Shadow LaneCount × Shadow (BitVec 2) × Vector (Shadow Drive) 4 × Shadow Framing :=
  ({ t with
      phase := .idle, micro := none, resultValid := false, result := zeroStatus
      status.mbps := 0, status.khz := 0, status.fecActive := false },
    q.lanes, q.rate, q.drive, q.framing)

theorem completionFrame_untouched (success : Bool) : Untouched (Act.ofDone success) completionFrame where
  micro _ _ _ := rfl
  complete a b c ha keeps := by rw [keeps.train_ofDone ha, keeps.phy]
  phy c b busy hc := by
    cases c with
    | pattern => rfl
    | videoOff => rfl
    | xmitOff => rfl
    | powerDown => rfl
    | fec => rfl
    | _ => cases hc
  upd u b hu := by
    cases u with
    | failSession => rfl
    | fecBegin => rfl
    | fecActive => rfl
    | fecGiveUp => rfl
    | negotiate => rfl
    | recordResult => rfl
    | _ => cases hu

/-- What `TRAIN.DONE 0` leaves besides. -/
def failFrame (t : TrainRegs) (q : PhyRegs) : LinkPhyStatus × LinkPhyStatus × Shadow Bool := (t.status, t.result, q.fec)

theorem failFrame_untouched : Untouched (Act.ofDone false) failFrame where
  micro _ _ _ := rfl
  complete a b c ha keeps := by rw [keeps.train_ofDone ha, keeps.phy]
  phy c b busy hc := by
    cases c with
    | pattern => rfl
    | videoOff => rfl
    | xmitOff => rfl
    | powerDown => rfl
    | _ => cases hc
  upd u b hu := by
    cases u with
    | failSession => rfl
    | _ => cases hu

/-- What `TRAIN.DONE 1` leaves besides. -/
def successFrame (_ : TrainRegs) (q : PhyRegs) : Shadow (BitVec 4) × Vector Power 4 := (q.xmitMask, q.power)

theorem successFrame_untouched : Untouched (Act.ofDone true) successFrame where
  micro _ _ _ := rfl
  complete a b c _ keeps := by rw [keeps.phy]; rfl
  phy c b busy hc := by
    cases c with
    | pattern => rfl
    | videoOff => rfl
    | fec => rfl
    | _ => cases hc
  upd _ _ _ := rfl

/-- Settles O42: the micro-steps of the completion write the negotiated values, the result and the phase only, and of the shadows what
the branch taken commands. -/
theorem doneFrame : Obligations.DoneFrame := by
  intro success s b ran
  have frame := (completionFrame_untouched success).exec (codeOf_trainDone_only success) ran
  simp only [completionFrame, Prod.mk.injEq] at frame
  obtain ⟨train, lanes, rate, drive, framing⟩ := frame
  simp only [TrainRegs.mk.injEq] at train
  obtain ⟨param, -, -, status, retry, notUpdated, cap, lstat, eqTps, -, -⟩ := train
  refine ⟨param, retry, notUpdated, cap, lstat, eqTps, ?_, lanes, rate, drive, framing, ?_, ?_⟩
  · exact congrArg (fun st : LinkPhyStatus => { st with
      mbps := b.train.status.mbps, khz := b.train.status.khz, fecActive := b.train.status.fecActive }) status
  · rintro rfl
    have frame := failFrame_untouched.exec (codeOf_trainDone_only false) ran
    simpa only [failFrame, Prod.mk.injEq] using frame
  · rintro rfl
    have frame := successFrame_untouched.exec (codeOf_trainDone_only true) ran
    simpa only [successFrame, Prod.mk.injEq] using frame

/-! ### After a successful session (R225) -/

theorem status_untouched : Untouched Act.keepsSound fun t _ => t.status where
  micro _ _ _ := rfl
  complete a b c _ keeps := by rw [keeps.train]
  phy _ _ _ _ := rfl
  upd u b hu := by
    cases u with
    | seedStatus => cases hu
    | setPhase => cases hu
    | adjust => cases hu
    | fallback => cases hu
    | fecActive => cases hu
    | fecGiveUp => cases hu
    | negotiate => cases hu
    | recordResult => cases hu
    | _ => rfl

/-- Settles O39: in `DONE` the commands of a running session fault, and no other command but the two that start one writes the
status. -/
theorem statusFrozen : Obligations.StatusFrozen := by
  intro i s t phase init start ran
  have outside (training : isTraining i = true) (illegal : i ∉ legalTraining .done) :
      t.blk.train.status = s.blk.train.status := by
    rw [(lockAndSequenceFaults i s).2 (.inl ⟨training, by rwa [phase]⟩)] at ran
    injection ran with ran
    rw [← ran]
  cases i with
  | trainStart => exact absurd rfl start
  | trainInit => exact absurd rfl init
  | trainCr => exact outside rfl (by decide)
  | trainEq => exact outside rfl (by decide)
  | trainDone success =>
    cases success with
    | false => exact status_untouched.exec (i := .trainDone false) rfl ran
    | true => exact outside rfl (by decide)
  | _ => exact status_untouched.exec (p := Act.keepsSound) rfl ran

end Sys2Proof.Machine
end

section
/-! PROOFS. What a session keeps from its first micro-step on, and how often it sets the rate (spec/42_link_training.md R191, R217). -/

namespace Sys2Proof.Machine

open Sys2Proof

/-! ### Code that keeps a relation, in a triple -/

/-- What a code's micro-steps and boundaries keep, the code keeps, however it ends. -/
theorem Carries.triple {p : Act → Bool} {Rel : Block → Block → Prop} (C : Carries p Rel) (hook : ∀ b, Rel b (boundary b))
    {P I N B R : Block → Prop} (closed : ∀ a b, Rel a b → I a → I b) {c : Code} (only : c.only p = true)
    (h : Triple boundary P c N B R) :
    Triple boundary (fun b => P b ∧ I b) c (fun b => N b ∧ I b) (fun b => B b ∧ I b) (fun b => R b ∧ I b) := by
  intro b hb ⟨hp, hi⟩
  obtain ⟨idle, steady, ends⟩ := h b hb hp
  have kept : I (Machine.runCode boundary c b).2 := closed _ _ (C.runCode hook c only b) hi
  refine ⟨idle, steady, ?_⟩
  revert ends
  unfold Ends
  split
  · exact (⟨·, kept⟩)
  · exact (⟨·, kept⟩)
  · exact (⟨·, kept⟩)
  · exact id

/-- The triple of every block with `P`. -/
theorem Triple.ofBlock {hook : Block → Block} {P N B R : Block → Prop} {c : Code}
    (h : ∀ b₀, P b₀ → Triple hook (fun b => b = b₀) c N B R) : Triple hook P c N B R :=
  fun b hb hp => h b hp b hb rfl

/-! ### How often the rate was set (R201, R217) -/

/-- The clock-recovery phases begun so far. -/
def rateSets (b : Block) : Nat := b.hist.countP Event.isRateSet

theorem rateSets_log {e : Event} (h : e.isRateSet = false) (b : Block) : rateSets (log e b) = rateSets b := by
  simp [rateSets, h]

theorem rateSets_logDriveSum (c : PhyAct) (b : Block) : rateSets (logDriveSum c b) = rateSets b := by
  cases c with
  | driveLane lane =>
    simp only [logDriveSum]
    split
    · exact rateSets_log rfl b
    · rfl
  | _ => rfl

theorem rateSets_phyAct (c : PhyAct) (b : Block) :
    rateSets (phyAct c b) = rateSets b + if c = .linkRate then 1 else 0 := by
  have before := rateSets_logDriveSum c b
  unfold rateSets at *
  rw [phyAct_hist, List.countP_append, before]
  cases c <;> rfl

theorem rateSets_accessIssue (a : Access) (b : Block) : rateSets (accessIssue a b).2 = rateSets b := by
  cases h : b.aux.fsm with
  | idle => rw [accessIssue_idle h, auxIssue_idle h]; exact rateSets_log rfl b
  | wait => rw [accessIssue, auxIssue_wait h]; rfl

theorem rateSets_takeAnswer (x : AuxAnswer) (b : Block) : rateSets (takeAnswer x b) = rateSets b := by
  cases x <;> exact rateSets_log rfl _

theorem rateSets_logXfer (x : Xfer) (b : Block) : rateSets (logXfer x b) = rateSets b := by
  unfold logXfer
  split
  · exact rateSets_log rfl b
  · rfl

theorem rateSets_accessComplete (a : Access) (b : Block) : rateSets (accessComplete a b) = rateSets b := by
  have result (x : Xfer) (c : Block) : rateSets (accessResult a x c) = rateSets c := by rw [rateSets, accessResult_hist, rateSets]
  cases h : b.aux.fsm with
  | idle => rw [accessComplete, auxComplete_idle h]
  | wait => rw [accessComplete, auxComplete_wait h]; exact (result _ _).trans <| (rateSets_logXfer _ _).trans <| rateSets_takeAnswer _ _

/-! ### What a session keeps after its first micro-step -/

/-- The store, the session's parameters and the number of clock-recovery phases are the same. -/
structure SessionKeeps (a b : Block) : Prop where
  store : b.store = a.store
  sessionParam : b.train.sessionParam = a.train.sessionParam
  rateSets : rateSets b = rateSets a

/-- The micro-steps of a session but its first and the one that begins a clock-recovery phase. -/
def Act.inSession : Act → Bool
  | .issue _ => true
  | .complete _ => true
  | .phy c => c != .linkRate
  | .delay _ => true
  | .upd .initBegin => false
  | .upd .paramSession => false
  | .upd (.paramSet _ _) => false
  | .upd (.sigtabSet _ _ _ _ _ _) => false
  | .upd _ => true
  | _ => false

theorem fallback_sessionParam (t : TrainRegs) : (fallback t).1.sessionParam = t.sessionParam := by
  obtain ⟨-, eq⟩ | ⟨n, -, -, eq⟩ | ⟨-, -, eq⟩ := fallback_cases t <;> rw [eq] <;> rfl

theorem runUpdate_sessionKeeps {u : Update} (h : (Act.upd u).inSession = true) (b : Block) : SessionKeeps b (runUpdate u b) := by
  cases u with
  | initBegin => cases h
  | paramSession => cases h
  | paramSet => cases h
  | sigtabSet => cases h
  | fallback => exact ⟨rfl, fallback_sessionParam b.train, rfl⟩
  | fecGiveUp => exact ⟨rfl, rfl, rateSets_log rfl _⟩
  | irqBegin => exact ⟨rfl, rfl, rateSets_log rfl _⟩
  | _ => exact ⟨rfl, rfl, rfl⟩

theorem sessionKeeps_carries : Carries Act.inSession SessionKeeps where
  refl _ := ⟨rfl, rfl, rfl⟩
  trans _ _ _ h k := ⟨k.store.trans h.store, k.sessionParam.trans h.sessionParam, k.rateSets.trans h.rateSets⟩
  act a ha b := by
    cases a with
    | issue a =>
      exact ⟨(accessIssue_accessKeeps a b).store, by rw [runAct, accessIssue_train], rateSets_accessIssue a b⟩
    | complete a =>
      have keeps := (accessComplete_keeps a b).2
      exact ⟨keeps.store, by rw [runAct, keeps.train], rateSets_accessComplete a b⟩
    | phy c =>
      have other : c ≠ .linkRate := by simpa [Act.inSession] using ha
      exact ⟨phyAct_store c b, by rw [runAct, phyAct_train], by rw [runAct, rateSets_phyAct, if_neg other]; rfl⟩
    | delay l => exact ⟨rfl, rfl, rateSets_log rfl b⟩
    | upd u => exact runUpdate_sessionKeeps ha b
    | _ => cases ha
  mark _ _ := ⟨rfl, rfl, rfl⟩
  returning _ _ := ⟨rfl, rfl, rfl⟩
  raise _ _ := ⟨rfl, rfl, rfl⟩

/-- A service begins no clock-recovery phase (R262). -/
theorem rateSets_runService {b : Block} (admitted : serviceAdmitted b = true) : rateSets (runService b) = rateSets b := by
  obtain ⟨-, -, idle⟩ := (serviceAdmitted_iff b).1 admitted
  have parser : rateSets (runCode quietBoundary parserCode (beginService b)).2 = rateSets b :=
    (sessionKeeps_carries.runCode (hook := quietBoundary) (fun _ => ⟨rfl, rfl, rfl⟩) parserCode rfl (beginService b)).rateSets
  rw [runService_eq idle, ← parser, endService]
  split
  · rfl
  · exact rateSets_log rfl _

theorem boundary_sessionKeeps (b : Block) : SessionKeeps b (boundary b) :=
  ⟨boundary_store b, by rw [boundary_train],
    boundary_keeps (R := fun a b => rateSets b = rateSets a) (fun _ => rfl) (fun _ _ _ h k => k.trans h) (fun _ => rfl)
      (fun _ => rateSets_runService) b⟩

/-- The session's registers: the store and the parameters it began with, and the number of clock-recovery phases so far. -/
def InSession (st : ParamStore) (p : LinkPhyParam) (sets : Nat) (b : Block) : Prop :=
  b.store = st ∧ b.train.sessionParam = p ∧ rateSets b = sets

theorem InSession.keep {st : ParamStore} {p : LinkPhyParam} {sets : Nat} {a b : Block} (h : SessionKeeps a b)
    (ha : InSession st p sets a) : InSession st p sets b :=
  ⟨h.store.trans ha.1, h.sessionParam.trans ha.2.1, h.rateSets.trans ha.2.2⟩

/-- A code without the two micro-steps that write them leaves the session's registers. -/
theorem Triple.inSession {P N B R : Block → Prop} {c : Code} {st : ParamStore} {p : LinkPhyParam} {sets : Nat}
    (h : Triple boundary P c N B R) (only : c.only Act.inSession = true) :
    Triple boundary (fun b => P b ∧ InSession st p sets b) c (fun b => N b ∧ InSession st p sets b)
      (fun b => B b ∧ InSession st p sets b) (fun b => R b ∧ InSession st p sets b) :=
  sessionKeeps_carries.triple boundary_sessionKeeps (fun _ _ => InSession.keep) only h

end Sys2Proof.Machine
end

section
/-! PROOFS. O26, O29, O32 and O33: how the steps of a session end, whatever the agents do (spec/42_link_training.md R192 to R218). -/

namespace Sys2Proof.Machine

open Sys2Proof

/-! ### What the steps share (R202 to R204, R211, R218) -/

/-- The micro-steps that initialization and both phases share: accesses, PHY commands, delays, and the writes of the phase. -/
def Act.shared : Act → Bool
  | .issue _ => true
  | .complete _ => true
  | .phy _ => true
  | .delay _ => true
  | .upd (.setPhase _) => true
  | _ => false

/-- The training registers but those that the shared micro-steps write. -/
def sharedFrame (t : TrainRegs) (_ : PhyRegs) : TrainRegs :=
  { t with phase := .idle, micro := none, cap := zeroBuf, lstat := Vector.replicate 6 0 }

theorem sharedFrame_untouched : Untouched Act.shared sharedFrame where
  micro _ _ _ := rfl
  complete a b c _ keeps := by rw [keeps.train]; rfl
  phy _ _ _ _ := rfl
  upd u _ hu := by
    cases u with
    | setPhase => rfl
    | _ => cases hu

/-- What `K` says of the training registers does not speak of those. -/
def Unshared (K : TrainRegs → Prop) : Prop := ∀ t q, K (sharedFrame t q) ↔ K t

section
variable {K K' : TrainRegs → Prop} {N B R : Block → Prop}

/-- A part of a step whose micro-steps are shared ones and which goes on or is aborted. -/
theorem shared_part {c : Code} (unshared : Unshared K) (aborted : ∀ b, Aborted .protocolError b → K b.train → R b)
    (only : c.only Act.shared = true)
    (h : Triple boundary (fun _ => True) c (fun _ => True) (fun _ => False) (Aborted .protocolError)) :
    Triple boundary (fun b => K b.train) c (fun b => K b.train) B R := by
  refine (sharedFrame_untouched.carries.triple (fun b => by rw [boundary_train, boundary_phy]) (I := fun b => K b.train)
    (fun a b same ha => ?_) only h).weaken (fun _ hb => ⟨trivial, hb⟩) (fun _ => And.right) (fun _ hb => hb.1.elim)
    fun b hb => aborted b hb.1 hb.2
  rw [← unshared a.train a.phy, ← same] at ha
  exact (unshared _ _).1 ha

/-- The same of a checked access. -/
theorem shared_checked {a : Access} (unshared : Unshared K) (aborted : ∀ b, Aborted .protocolError b → K b.train → R b) :
    Triple boundary (fun b => K b.train) (checked a) (fun b => K b.train) B R :=
  shared_part unshared aborted rfl (checked_triple fun _ => id)

/-- A shared micro-step. -/
theorem shared_act {a : Act} (unshared : Unshared K) (aborted : ∀ b, Aborted .protocolError b → K b.train → R b)
    (shared : a.shared = true) (plain : a.plain = true) : Triple boundary (fun b => K b.train) (.act a) (fun b => K b.train) B R :=
  shared_part unshared aborted shared (act_triple plain)

theorem shared_mark {m : Option MicroStep} (unshared : Unshared K) :
    Triple boundary (fun b => K b.train) (.mark m) (fun b => K b.train) B R :=
  .mark fun b hb => (unshared _ b.phy).1 ((unshared b.train b.phy).2 hb)

/-- An internal update of the training registers. -/
theorem train_upd {u : Update} {f : TrainRegs → TrainRegs} (plain : (Act.upd u).plain = true)
    (upd : ∀ b, (runUpdate u b).train = f b.train) (h : ∀ t, K t → K' (f t)) :
    Triple boundary (fun b => K b.train) (.act (.upd u)) (fun b => K' b.train) B R :=
  .act boundary_gentle plain fun b hb => by
    rw [runAct, upd, boundary_train]
    exact h _ hb

/-- Steps 1 to 3 of an iteration (R202 to R204, R211). -/
theorem iteration_shared (eq : Bool) (l : DelayLabel) {rest : Code} (unshared : Unshared K)
    (aborted : ∀ b, Aborted .protocolError b → K b.train → R b) (h : Triple boundary (fun b => K b.train) rest N B R) :
    Triple boundary (fun b => K b.train)
      (.seq (patternSetCode eq) (.seq (settleCode l) (.seq statusReadCode (.seq (.mark (some .convergenceCheck)) rest)))) N B R := by
  have step {a : Access} : Triple boundary (fun _ => True) (checked a) (fun _ => True) (fun _ => False) (Aborted .protocolError) :=
    checked_triple fun _ => id
  have lane (i : Lane) : Triple boundary (fun _ => True) (driveLaneCode i) (fun _ => True) (fun _ => False)
      (Aborted .protocolError) := .cond (act_triple rfl) (Triple.skip.pre fun _ _ => trivial)
  have drive : Triple boundary (fun _ => True) programDriveCode (fun _ => True) (fun _ => False) (Aborted .protocolError) :=
    .seq (lane 0) (.seq (lane 1) (.seq (lane 2) (lane 3)))
  exact .seq (shared_part unshared aborted rfl (.seq mark_triple (.seq drive (.seq (act_triple rfl) (.seq step step))))) <|
    .seq (shared_part unshared aborted rfl (.seq mark_triple (act_triple rfl))) <|
    .seq (shared_part unshared aborted rfl (.seq mark_triple step)) <| .seq (shared_mark unshared) h

/-- The success of a step (R199, R205, R213). -/
theorem success_shared {success : Phase} (phase : ∀ t, K t → K { t with phase := success })
    (done : ∀ b, b.loc.ret = .ok → b.train.phase = success → K b.train → R b) :
    Triple boundary (fun b => K b.train) (block [.act (.upd (.setPhase success)), .ret .ok]) N B R :=
  .seq (train_upd (K' := fun t => t.phase = success ∧ K t) (f := fun t => { t with phase := success }) rfl (fun _ => rfl)
    fun t ht => ⟨rfl, phase t ht⟩) (.ret fun _ hb => done _ rfl hb.1 hb.2)

end

/-! ### Initialization (R192 to R200) -/

/-- After the first micro-step of a session that began with these parameters: no valid result, and this status. -/
def Begun (p : LinkPhyParam) (status : LinkPhyStatus) (t : TrainRegs) : Prop :=
  t.sessionParam = p ∧ t.resultValid = false ∧ t.status = status

/-- How `Init()` ends, from the parameters and the status it began with. -/
def InitDone (p : LinkPhyParam) (status : LinkPhyStatus) (b : Block) : Prop :=
  b.loc.ret = .ok ∧ b.train.phase = .initOk ∧ Begun p (seedStatus p) b.train ∨
    Aborted .protocolError b ∧ Begun p status b.train

/-- `Init()` after its first micro-step. -/
def initRest : Code :=
  block
    [checked .capability, framingCode, checked .downspread, checked .channelCoding, .act (.upd .seedStatus), .act (.upd .selectEq),
      .act (.phy .xmitActive), .act (.upd (.setPhase .initOk)), .ret .ok]

theorem initRest_triple {p : LinkPhyParam} {status : LinkPhyStatus} {N B : Block → Prop} :
    Triple boundary (fun b => Begun p status b.train) initRest N B (InitDone p status) := by
  have unshared {st : LinkPhyStatus} : Unshared (Begun p st) := fun _ _ => Iff.rfl
  have aborted (b : Block) (h : Aborted .protocolError b) (k : Begun p status b.train) : InitDone p status b := .inr ⟨h, k⟩
  have framing : Triple boundary (fun _ => True) framingCode (fun _ => True) (fun _ => False) (Aborted .protocolError) :=
    .seq (.cond ((checked_triple fun _ => id).pre fun _ _ => trivial) (Triple.skip.pre fun _ _ => trivial)) (act_triple rfl)
  refine .seq (shared_checked unshared aborted) <| .seq (shared_part unshared aborted rfl framing) <|
    .seq (shared_checked unshared aborted) <| .seq (shared_checked unshared aborted) <|
    .seq (train_upd (K' := Begun p (seedStatus p)) (f := fun t => { t with status := seedStatus t.sessionParam }) rfl (fun _ => rfl) ?_) <|
    .seq (train_upd (K' := Begun p (seedStatus p)) (f := fun t => { t with eqTps := Config.selectEqTps t.sessionParam.eqTps t.cap }) rfl
      (fun _ => rfl) fun _ => id) <|
    .seq (.act (N := fun b => Begun p (seedStatus p) b.train) boundary_gentle rfl fun b hb => ?_) <|
    success_shared (fun _ => id) fun b ok phase k => .inl ⟨ok, phase, k⟩
  · rintro t ⟨rfl, valid, -⟩
    exact ⟨rfl, valid, rfl⟩
  · rwa [runAct, phyAct_train, boundary_train]

/-- Initialization, with what a session keeps from its first micro-step on. -/
theorem initCode_session {st : ParamStore} {status : LinkPhyStatus} {sets : Nat} {N B : Block → Prop} :
    Triple boundary
      (fun b => b.train.phase ∈ startPhases ∧ b.store = st ∧ b.train.status = status ∧ rateSets b = sets) initCode N B
      (fun b => InitDone st.defaultParam status b ∧ InSession { st with configLocked := true } st.defaultParam sets b) := by
  have rest : Triple boundary _ initRest (fun b => False ∧ _) (fun b => False ∧ _) _ :=
    (initRest_triple (p := st.defaultParam) (status := status)).inSession (st := { st with configLocked := true })
      (p := st.defaultParam) (sets := sets) rfl
  refine phaseIn_triple (fun _ => And.left) <| .seq (.act boundary_gentle rfl fun b hb => ?_)
    (rest.weaken (fun _ => id) (fun _ h => h.1.elim) (fun _ h => h.1.elim) fun _ => id)
  obtain ⟨-, rfl, rfl, rfl⟩ := hb
  have kept := boundary_sessionKeeps b
  have param := congrArg ParamStore.defaultParam kept.store
  have status : (boundary b).train.status = b.train.status := by rw [boundary_train]
  exact ⟨⟨param, rfl, status⟩,
    congrArg (fun st : ParamStore => { st with configLocked := true }) kept.store, param, kept.rateSets⟩

/-- Settles O26: initialization from the host's state. -/
theorem initOutcome : Obligations.InitOutcome := by
  intro s phase idle
  obtain ⟨c, eq, ⟨done, store, param, -⟩, -, -⟩ := exec_of_triple (i := .trainInit)
    (initCode_session (st := s.blk.store) (status := s.blk.train.status) (sets := rateSets (log (.cmdStart 0x03) s.blk))) idle
    ⟨phase, rfl, rfl, rfl⟩
  obtain ⟨ret, phase, -, valid, -⟩ | ⟨⟨ret, phase⟩, -, valid, status⟩ := done
  · exact ⟨endCommand c, eq, store, param, valid, .inl ⟨by rw [endCommand_resStatus, ret]; rfl, phase⟩⟩
  · exact ⟨endCommand c, eq, store, param, valid, .inr ⟨by rw [endCommand_resStatus, ret]; rfl, phase, status⟩⟩

end Sys2Proof.Machine
end

section
/-! PROOFS. O29, O32 and O33: how the phases end, with their counters and the ladder's step (spec/42_link_training.md R201 to R218). -/

namespace Sys2Proof.Machine

open Sys2Proof

/-! ### The counters of a loop (R206, R207, R214) -/

/-- The rung of the ladder that these registers are on: the session's parameters, the lane count and the rate (R215). -/
def SameRung (old t : TrainRegs) : Prop :=
  t.sessionParam = old.sessionParam ∧ t.status.curLanes = old.status.curLanes ∧ t.status.curRate = old.status.curRate

/-- A loop with this bound has counted `k` iterations and goes on, on the rung it began on. -/
def Counting (old : TrainRegs) (bound k : Nat) (t : TrainRegs) : Prop :=
  SameRung old t ∧ t.retry.toNat = k ∧ k < bound ∧ t.notUpdated.toNat ≤ k ∧ t.notUpdated.toNat < 5

/-- An iteration has ended, and been counted, in a loop with this bound. -/
def Counted (old : TrainRegs) (bound k : Nat) (t : TrainRegs) : Prop :=
  SameRung old t ∧ t.retry.toNat = k ∧ k ≤ bound ∧ t.notUpdated.toNat ≤ k ∧ t.notUpdated.toNat ≤ 5

/-- A loop that goes on, however often it was counted. -/
def Below (old : TrainRegs) (bound : Nat) (t : TrainRegs) : Prop := ∃ k, Counting old bound k t

/-- A loop that was left at its bound (R207, R214). -/
def AtBound (old : TrainRegs) (bound : Nat) (t : TrainRegs) : Prop :=
  (∃ k, Counted old bound k t) ∧ (t.retry.toNat = bound ∨ t.notUpdated.toNat = 5)

theorem boundReached_iff {bound : Nat} (small : bound < 256) (t : TrainRegs) :
    boundReached t bound = true ↔ t.retry.toNat = bound ∨ t.notUpdated.toNat = 5 := by
  simp [boundReached, Config.notUpdatedMax, ← BitVec.toNat_inj, Nat.mod_eq_of_lt small]

/-- `Adjust()` counts one more unchanged request at most (R206). -/
theorem adjust_notUpdated_le {t : TrainRegs} (few : t.notUpdated.toNat < 5) :
    (adjust t).notUpdated.toNat ≤ t.notUpdated.toNat + 1 := by
  have next : (t.notUpdated + 1).toNat = t.notUpdated.toNat + 1 := by
    rw [BitVec.toNat_add, Nat.mod_eq_of_lt (by simp; omega)]
    rfl
  simp only [adjust]
  split
  · simp
  · exact next.le

theorem counted_of_counting {old t : TrainRegs} {bound k : Nat} (small : bound < 256) (h : Counting old bound k t) :
    Counted old bound (k + 1) { adjust t with retry := (adjust t).retry + 1 } := by
  obtain ⟨rung, rfl, below, unchanged, few⟩ := h
  have notUpdated := adjust_notUpdated_le few
  have retry : (t.retry + 1).toNat = t.retry.toNat + 1 := by
    rw [BitVec.toNat_add, Nat.mod_eq_of_lt (by simp; omega)]
    rfl
  exact ⟨rung, retry, below, notUpdated.trans (by omega), notUpdated.trans (by omega)⟩

section
variable {old : TrainRegs} {bound k : Nat} {N B R : Block → Prop}

/-- Adjust and count: the loop goes on, or is left at its bound (R206, R207, R214). -/
theorem adjustCode_counts (small : bound < 256) :
    Triple boundary (fun b => Counting old bound k b.train) (adjustCode bound) (fun b => Counting old bound (k + 1) b.train)
      (fun b => AtBound old bound b.train) R := by
  refine .seq (shared_mark fun _ _ => Iff.rfl) <|
    .seq (train_upd (K' := fun t => Counted old bound (k + 1) { t with retry := t.retry + 1 }) (f := adjust) rfl (fun _ => rfl)
      fun t => counted_of_counting small) <|
    .seq (train_upd (K' := Counted old bound (k + 1)) (f := fun t => { t with retry := t.retry + 1 }) rfl (fun _ => rfl) fun _ => id) <|
    .cond (Triple.brk.pre fun b hb => ⟨⟨_, hb.1⟩, (boundReached_iff small _).1 hb.2⟩) (Triple.skip.pre ?_)
  rintro b ⟨⟨rung, retry, le, unchanged, few⟩, test⟩
  have going : ¬ (b.train.retry.toNat = bound ∨ b.train.notUpdated.toNat = 5) := by
    rw [← boundReached_iff small]
    simpa [evalTest] using test
  exact ⟨rung, retry, by omega, unchanged, by omega⟩

/-- A loop whose rounds are counted and whose written bound is never reached. -/
theorem Triple.loopCount {hook : Block → Block} {I : Nat → Block → Prop} {c : Code} {n : Nat}
    (hc : ∀ k, Triple hook (I k) c (I (k + 1)) N R) (hN : ∀ b, I n b → N b) : Triple hook (I 0) (.loop n c) N B R := by
  have from_ (m k : Nat) (h : k + m = n) : Triple hook (I k) (.loop m c) N B R := by
    induction m generalizing k with
    | zero => exact Triple.loopZero.post (by rwa [← h] at hN)
    | succ m ih => exact .loopStep (hc k) (ih (k + 1) (by omega))
  exact from_ n 0 (Nat.zero_add n)

/-- The first micro-step that clears the counters (R201, R210). -/
theorem clearCounters_counts (positive : 0 < bound) :
    Triple boundary (fun b => SameRung old b.train) (.act (.upd .clearCounters)) (fun b => Counting old bound 0 b.train) B R :=
  train_upd (K' := Counting old bound 0) (f := fun t => { t with retry := 0, notUpdated := 0 }) rfl (fun _ => rfl)
    fun _ rung => ⟨rung, rfl, positive, Nat.le_refl 0, by simp⟩

/-! ### The ladder's step (R208, R215, R216) -/

/-- The ladder's step was taken from registers with `G`. -/
def Laddered (G : TrainRegs → Prop) (b : Block) : Prop :=
  ∃ t, G t ∧ b.train = (fallback t).1 ∧ b.loc.ret = (fallback t).2

theorem fallbackCode_ladders {G : TrainRegs → Prop} (unshared : Unshared G) (done : ∀ b, Laddered G b → R b) :
    Triple boundary (fun b => G b.train) fallbackCode N B R :=
  .seq (shared_mark unshared) <|
    .seq (M := fun b => ∃ t, G t ∧ b.train = (fallback t).1 ∧ b.loc.st = (fallback t).2)
      (.act boundary_gentle rfl fun b hb => ⟨_, by rwa [boundary_train], rfl, rfl⟩) <|
    .retSt fun _ ⟨t, ht, train, st⟩ => done _ ⟨t, ht, train, st⟩

/-! ### Clock recovery (R201 to R209) -/

/-- How `Cr()` ends, from the registers it began with. -/
def CrEnd (old : TrainRegs) (b : Block) : Prop :=
  (b.loc.ret = .ok ∧ b.train.phase = .crOk ∧ crOk b.train.lstat b.train.status.curLanes = true ∧ Below old Config.crRetry b.train) ∨
    Laddered (AtBound old Config.crRetry) b ∨
    (Aborted .protocolError b ∧ Below old Config.crRetry b.train) ∨
    (Aborted .busy b ∧ b.phy.lanes = .unknown ∧ b.phy.rate = .unknown ∧ b.train.retry = old.retry ∧
      b.train.notUpdated = old.notUpdated)

/-- One iteration of clock recovery (R202 to R207). -/
theorem crIteration_counts :
    Triple boundary (fun b => Counting old Config.crRetry k b.train) crIteration
      (fun b => Counting old Config.crRetry (k + 1) b.train) (fun b => AtBound old Config.crRetry b.train) (CrEnd old) := by
  let Done (t : TrainRegs) : Prop := Counting old Config.crRetry k t ∧ crOk t.lstat t.status.curLanes = true
  refine iteration_shared false .crDelay (fun _ _ => Iff.rfl) (fun b h counting => .inr (.inr (.inl ⟨h, _, counting⟩))) <|
    .seq (.cond ?_ (Triple.skip.pre fun _ => And.left)) (adjustCode_counts (by decide))
  exact success_shared (K := Done) (fun _ => id) fun b ok phase done => .inl ⟨ok, phase, done.2, _, done.1⟩

/-- `Cr()` after the PHY has been given the rate (R201). -/
def crRest : Code :=
  block
    [.cond .phyOk .skip (abortCode .busy), .act (.phy .xmitActive), .act (.upd .clearCounters), .loop Config.crRetry crIteration,
      fallbackCode]

/-- The rate has been set: the registers are those of the entry, and where the PHY was busy its rate and lanes are unknown. -/
def RateSet (old : TrainRegs) (b : Block) : Prop :=
  SameRung old b.train ∧ b.train.retry = old.retry ∧ b.train.notUpdated = old.notUpdated ∧
    (b.loc.busy = true → b.phy.lanes = .unknown ∧ b.phy.rate = .unknown)

theorem crRest_triple : Triple boundary (RateSet old) crRest N B (CrEnd old) := by
  have busy : Triple boundary (fun b => RateSet old b ∧ evalTest .phyOk b = false) (abortCode .busy) (fun b => SameRung old b.train) B
      (CrEnd old) := by
    refine .seq (M := fun b => b.train.phase = .failedPending ∧ RateSet old b ∧ b.loc.busy = true) (.first rfl fun b hb => ?_)
      (.ret fun b hb => ?_)
    · have busy : b.loc.busy = true := by simpa [evalTest] using hb.2
      exact ⟨rfl, hb.1, busy⟩
    · obtain ⟨phase, ⟨-, retry, notUpdated, unknown⟩, busy⟩ := hb
      obtain ⟨lanes, rate⟩ := unknown busy
      exact .inr (.inr (.inr ⟨⟨rfl, phase⟩, lanes, rate, retry, notUpdated⟩))
  have loop : Triple boundary (fun b => Counting old Config.crRetry 0 b.train) (.loop Config.crRetry crIteration)
      (fun b => AtBound old Config.crRetry b.train) B (CrEnd old) :=
    .loopCount (I := fun k b => Counting old Config.crRetry k b.train) (fun _ => crIteration_counts)
      fun _ h => absurd h.2.2.1 (by simp)
  exact .seq (.cond (Triple.skip.pre fun _ h => h.1.1) busy) <|
    .seq (.act boundary_gentle rfl fun b hb => by rwa [runAct, phyAct_train, boundary_train]) <|
    .seq (clearCounters_counts (by decide)) <| .seq loop <| fallbackCode_ladders (fun _ _ => Iff.rfl) fun _ h => .inr (.inl h)

/-- `set_lane_count_link_rate` at the entry of a clock-recovery phase (R37, R201). -/
theorem linkRate_sets {st : ParamStore} {sets : Nat} :
    Triple boundary (fun b => b.train = { old with micro := none } ∧ InSession st old.sessionParam sets b) (.act (.phy .linkRate))
      (fun b => RateSet old b ∧ InSession st old.sessionParam (sets + 1) b) B R := by
  refine .act boundary_gentle rfl fun b ⟨train, session⟩ => ?_
  have same : (phyAct .linkRate (boundary b)).train = { old with micro := none } := by rw [phyAct_train, boundary_train, train]
  obtain ⟨store, -, rateSets⟩ := session.keep (boundary_sessionKeeps b)
  rw [runAct]
  refine ⟨⟨by rw [same]; exact ⟨rfl, rfl, rfl⟩, by rw [same], by rw [same], fun busy => ?_⟩, ?_, by rw [same], ?_⟩
  · rw [phyAct_phy, busy]
    exact ⟨rfl, rfl⟩
  · rw [phyAct_store, store]
  · rw [rateSets_phyAct, rateSets, if_pos rfl]

/-- Clock recovery, with what a session keeps: it sets the rate once. -/
theorem crCode_session {st : ParamStore} {sets : Nat} (phase : old.phase ∈ [Phase.initOk, .retryPending]) :
    Triple boundary (fun b => b.train = old ∧ InSession st old.sessionParam sets b) crCode N B
      (fun b => CrEnd old b ∧ InSession st old.sessionParam (sets + 1) b) := by
  have rest : Triple boundary _ crRest (fun b => False ∧ _) (fun b => False ∧ _) _ :=
    (crRest_triple (old := old)).inSession (st := st) (p := old.sessionParam) (sets := sets + 1) rfl
  refine phaseIn_triple (fun b hb => by rwa [hb.1]) <| .seq (.mark fun b hb => ?_) <| .seq linkRate_sets
    (rest.weaken (fun _ => id) (fun _ h => h.1.elim) (fun _ h => h.1.elim) fun _ => id)
  obtain ⟨rfl, session⟩ := hb
  exact ⟨rfl, session⟩

/-! ### Equalization (R210 to R214) -/

/-- How `Eq()` ends, from the registers it began with. -/
def EqEnd (old : TrainRegs) (b : Block) : Prop :=
  (b.loc.ret = .ok ∧ b.train.phase = .eqOk ∧ crOk b.train.lstat b.train.status.curLanes = true ∧
      eqOk b.train.lstat b.train.status.curLanes = true ∧ Below old Config.eqRetry b.train) ∨
    Laddered (fun t => ∃ k, Counted old Config.eqRetry k t) b ∨
    (Aborted .protocolError b ∧ Below old Config.eqRetry b.train)

theorem counted_of_below {t : TrainRegs} (h : Counting old bound k t) : Counted old bound k t :=
  ⟨h.1, h.2.1, h.2.2.1.le, h.2.2.2.1, h.2.2.2.2.le⟩

/-- One iteration of equalization (R211 to R214): the loop is left where clock recovery is lost, or at the bound. -/
theorem eqIteration_counts :
    Triple boundary (fun b => Counting old Config.eqRetry k b.train) eqIteration
      (fun b => Counting old Config.eqRetry (k + 1) b.train) (fun b => ∃ k, Counted old Config.eqRetry k b.train) (EqEnd old) := by
  let Locked (t : TrainRegs) : Prop := Counting old Config.eqRetry k t ∧ crOk t.lstat t.status.curLanes = true
  let Done (t : TrainRegs) : Prop := Locked t ∧ eqOk t.lstat t.status.curLanes = true
  refine iteration_shared true .eqDelay (fun _ _ => Iff.rfl) (fun b h counting => .inr (.inr ⟨h, _, counting⟩)) <|
    .seq (M := fun b => Locked b.train) (.cond (Triple.skip.pre fun _ => id) (Triple.brk.pre fun _ h => ⟨k, counted_of_below h.1⟩)) <|
    .seq (.cond ?_ (Triple.skip.pre fun _ h => h.1.1)) ?_
  · exact success_shared (K := Done) (fun _ => id) fun b ok phase done => .inl ⟨ok, phase, done.1.2, done.2, _, done.1.1⟩
  · exact (adjustCode_counts (by decide)).weaken (fun _ => id) (fun _ => id) (fun _ => And.left) fun _ => id

theorem eqCode_triple_counts (phase : old.phase = .crOk) : Triple boundary (fun b => b.train = old) eqCode N B (EqEnd old) := by
  have loop : Triple boundary (fun b => Counting old Config.eqRetry 0 b.train) (.loop Config.eqRetry eqIteration)
      (fun b => ∃ k, Counted old Config.eqRetry k b.train) B (EqEnd old) :=
    .loopCount (I := fun k b => Counting old Config.eqRetry k b.train) (fun _ => eqIteration_counts)
      fun _ h => absurd h.2.2.1 (by simp)
  refine phaseIn_triple (fun b hb => by simp [hb, phase]) <| .seq (.mark fun b hb => ?_) <|
    .seq (clearCounters_counts (by decide)) <| .seq loop <|
    fallbackCode_ladders (G := fun t => ∃ k, Counted old Config.eqRetry k t) (fun _ _ => Iff.rfl) fun _ h => .inr (.inl h)
  rw [hb]
  exact ⟨rfl, rfl, rfl⟩

end

end Sys2Proof.Machine
end

section
namespace Sys2Proof.Machine

open Sys2Proof

/-! ### The outcomes as the host reads them (R209, R214, R250) -/

section
variable {old t : TrainRegs}

theorem fallback_counters (t : TrainRegs) : (fallback t).1.retry = t.retry ∧ (fallback t).1.notUpdated = t.notUpdated := by
  obtain ⟨-, eq⟩ | ⟨n, -, -, eq⟩ | ⟨-, -, eq⟩ := fallback_cases t <;> rw [eq] <;> exact ⟨rfl, rfl⟩

theorem crBelow (h : Below old Config.crRetry t) : t.retry < 10 ∧ t.notUpdated < 5 := by
  obtain ⟨k, -, retry, below, -, few⟩ := h
  exact ⟨BitVec.lt_def.2 (by rw [retry]; exact below), BitVec.lt_def.2 few⟩

theorem crAtBound (h : AtBound old Config.crRetry t) :
    5 ≤ t.retry ∧ t.retry ≤ 10 ∧ t.notUpdated ≤ 5 ∧ (t.retry = 10 ∨ t.notUpdated = 5) := by
  obtain ⟨⟨k, -, rfl, le, unchanged, few⟩, bound⟩ := h
  refine ⟨BitVec.le_def.2 ?_, BitVec.le_def.2 le, BitVec.le_def.2 few, bound.imp BitVec.eq_of_toNat_eq BitVec.eq_of_toNat_eq⟩
  obtain bound | bound := bound
  · rw [bound]; decide
  · rw [bound] at unchanged; exact unchanged

theorem eqCounted {k : Nat} (h : Counted old Config.eqRetry k t) : t.retry ≤ 5 ∧ t.notUpdated ≤ t.retry := by
  obtain ⟨-, rfl, le, unchanged, -⟩ := h
  exact ⟨BitVec.le_def.2 le, BitVec.le_def.2 unchanged⟩

/-- The status and the phase of a ladder's step (R215). -/
theorem Laddered.end {G : TrainRegs → Prop} {b : Block} (h : Laddered G b) :
    b.loc.ret = .retry ∧ b.train.phase = .retryPending ∨ b.loc.ret = .fatal ∧ b.train.phase = .failedPending := by
  obtain ⟨t, -, train, ret⟩ := h
  rw [train, ret]
  exact fallback_end t

end

/-- `TRAIN.CR` from the host's state. -/
theorem exec_trainCr {s : State} (phase : s.blk.train.phase ∈ [Phase.initOk, .retryPending]) (idle : s.blk.aux.fsm = .idle) :
    ∃ c, exec .trainCr s = .next { s with blk := endCommand c } ∧ CrEnd s.blk.train c := by
  obtain ⟨c, eq, ⟨ends, -⟩, -, -⟩ := exec_of_triple (i := .trainCr)
    (crCode_session (st := s.blk.store) (sets := rateSets (log (.cmdStart 0x04) s.blk)) phase) idle ⟨rfl, rfl, rfl, rfl⟩
  exact ⟨c, eq, ends⟩

/-- `TRAIN.EQ` from the host's state. -/
theorem exec_trainEq {s : State} (phase : s.blk.train.phase = .crOk) (idle : s.blk.aux.fsm = .idle) :
    ∃ c, exec .trainEq s = .next { s with blk := endCommand c } ∧ EqEnd s.blk.train c := by
  obtain ⟨c, eq, ends, -, -⟩ := exec_of_triple (i := .trainEq) (eqCode_triple_counts phase) idle rfl
  exact ⟨c, eq, ends⟩

theorem endCommand_resStatus_of {c : Block} {st : Status} (h : c.loc.ret = st) : (endCommand c).port.resStatus = st.code := by
  rw [endCommand_resStatus, h]

/-- Settles O29: the four ends of `Cr()`, the ladder's with its two statuses. -/
theorem crOutcome : Obligations.CrOutcome := by
  intro s phase idle
  obtain ⟨c, eq, ⟨ret, ph, done, below⟩ | ladder | ⟨⟨ret, ph⟩, below⟩ | ⟨⟨ret, ph⟩, lanes, rate, retry, notUpdated⟩⟩ :=
    exec_trainCr phase idle
  · obtain ⟨retry, notUpdated⟩ := crBelow below
    exact ⟨_, eq, .inl ⟨endCommand_resStatus_of ret, ph, done, retry, notUpdated⟩⟩
  · refine ⟨_, eq, .inr (.inl ⟨ladder.end.imp (.imp_left endCommand_resStatus_of) (.imp_left endCommand_resStatus_of), ?_⟩)⟩
    obtain ⟨t, bound, train, -⟩ := ladder
    rw [endCommand_retry, endCommand_notUpdated, train, (fallback_counters t).1, (fallback_counters t).2]
    exact crAtBound bound
  · obtain ⟨retry, notUpdated⟩ := crBelow below
    exact ⟨_, eq, .inr (.inr (.inl ⟨endCommand_resStatus_of ret, ph, retry, notUpdated⟩))⟩
  · exact ⟨_, eq, .inr (.inr (.inr ⟨endCommand_resStatus_of ret, ph, lanes, rate, retry, notUpdated⟩))⟩

/-- Settles O32: the three ends of `Eq()`, the ladder's with its two statuses. -/
theorem eqOutcome : Obligations.EqOutcome := by
  intro s phase idle
  obtain ⟨c, eq, ⟨ret, ph, cr, done, k, below⟩ | ladder | ⟨⟨ret, ph⟩, k, below⟩⟩ := exec_trainEq phase idle
  · obtain ⟨retry, notUpdated⟩ := eqCounted (counted_of_below below)
    exact ⟨_, eq, retry, notUpdated, .inl ⟨endCommand_resStatus_of ret, ph, cr, done⟩⟩
  · have ends := ladder.end
    obtain ⟨t, ⟨k, counted⟩, train, -⟩ := ladder
    obtain ⟨retry, notUpdated⟩ := eqCounted counted
    refine ⟨_, eq, ?_, ?_, .inr ?_⟩
    · rwa [endCommand_retry, train, (fallback_counters t).1]
    · rwa [endCommand_retry, endCommand_notUpdated, train, (fallback_counters t).1, (fallback_counters t).2]
    · obtain ⟨ret, ph⟩ | ⟨ret, ph⟩ := ends
      · exact .inl ⟨endCommand_resStatus_of ret, ph⟩
      · exact .inr (.inl ⟨endCommand_resStatus_of ret, ph⟩)
  · obtain ⟨retry, notUpdated⟩ := eqCounted (counted_of_below below)
    exact ⟨_, eq, retry, notUpdated, .inr (.inr (.inr ⟨endCommand_resStatus_of ret, ph⟩))⟩

/-! ### The rung a phase ends on (R215, R216) -/

/-- How a phase ends, as far as the ladder goes: on its rung, with the ladder's step taken from it, or aborted. -/
def Climbed (success : Phase) (old : TrainRegs) (b : Block) : Prop :=
  (b.loc.ret = .ok ∧ b.train.phase = success ∧ SameRung old b.train) ∨ Laddered (SameRung old) b ∨
    (b.loc.ret = .protocolError ∨ b.loc.ret = .busy)

theorem CrEnd.climbed {old : TrainRegs} {b : Block} (h : CrEnd old b) : Climbed .crOk old b := by
  obtain ⟨ret, phase, -, k, rung, -⟩ | ⟨t, ⟨⟨k, rung, -⟩, -⟩, ends⟩ | ⟨⟨ret, -⟩, -⟩ | ⟨⟨ret, -⟩, -⟩ := h
  · exact .inl ⟨ret, phase, rung⟩
  · exact .inr (.inl ⟨t, rung, ends⟩)
  · exact .inr (.inr (.inl ret))
  · exact .inr (.inr (.inr ret))

theorem EqEnd.climbed {old : TrainRegs} {b : Block} (h : EqEnd old b) : Climbed .eqOk old b := by
  obtain ⟨ret, phase, -, -, k, rung, -⟩ | ⟨t, ⟨k, rung, -⟩, ends⟩ | ⟨⟨ret, -⟩, -⟩ := h
  · exact .inl ⟨ret, phase, rung⟩
  · exact .inr (.inl ⟨t, rung, ends⟩)
  · exact .inr (.inr (.inl ret))

/-- A phase that answers `Retry` or `Fatal` has taken the ladder's step. -/
theorem Climbed.laddered {success : Phase} {old : TrainRegs} {b : Block} (h : Climbed success old b)
    (ret : b.loc.ret = .retry ∨ b.loc.ret = .fatal) : Laddered (SameRung old) b := by
  obtain ⟨ok, -, -⟩ | ladder | other := h
  · simp [ok] at ret
  · exact ladder
  · obtain other | other := other <;> simp [other] at ret

theorem nextLanes_some {n m : LaneCount} (h : nextLanes n = some m) : (n = .four ∧ m = .two) ∨ (n = .two ∧ m = .one) := by
  cases n <;> simp_all [nextLanes]

/-- The rung below (R215, R216). -/
theorem fallback_retry {t : TrainRegs} (h : (fallback t).2 = .retry) :
    (fallback t).1.phase = .retryPending ∧ (fallback t).1.status.swing = t.sessionParam.initSwing ∧
      (fallback t).1.status.preemp = t.sessionParam.initPreemp ∧
      ((t.status.curRate ≠ 0 ∧ (fallback t).1.status.curRate = t.status.curRate - 1 ∧
          (fallback t).1.status.curLanes = t.status.curLanes) ∨
        (t.status.curRate = 0 ∧ (fallback t).1.status.curRate = t.sessionParam.initRate ∧
          ((t.status.curLanes = .four ∧ (fallback t).1.status.curLanes = .two) ∨
            (t.status.curLanes = .two ∧ (fallback t).1.status.curLanes = .one)))) := by
  obtain ⟨high, eq⟩ | ⟨n, low, next, eq⟩ | ⟨-, -, eq⟩ := fallback_cases t <;> rw [eq] at h ⊢
  · exact ⟨rfl, rfl, rfl, .inl ⟨high, rfl, rfl⟩⟩
  · exact ⟨rfl, rfl, rfl, .inr ⟨low, rfl, nextLanes_some next⟩⟩
  · cases h

/-- No rung below (R215). -/
theorem fallback_fatal {t : TrainRegs} (h : (fallback t).2 = .fatal) :
    t.status.curRate = 0 ∧ t.status.curLanes = .one ∧ (fallback t).1 = { t with phase := .failedPending } := by
  obtain ⟨-, eq⟩ | ⟨n, -, -, eq⟩ | ⟨rate, lanes, eq⟩ := fallback_cases t <;> rw [eq] at h ⊢
  · cases h
  · cases h
  · exact ⟨rate, lanes, rfl⟩

theorem ret_of_resStatus {c : Block} {st : Status} (h : (endCommand c).port.resStatus = st.code) : c.loc.ret = st := by
  rw [endCommand_resStatus] at h
  revert h
  cases c.loc.ret <;> cases st <;> decide

/-- `TRAIN.CR` and `TRAIN.EQ` in a phase that lists them. -/
theorem exec_phase {i : Instr} {s : State} (command : i = .trainCr ∨ i = .trainEq) (legal : i ∈ legalTraining s.blk.train.phase)
    (idle : s.blk.aux.fsm = .idle) :
    ∃ c success, exec i s = .next { s with blk := endCommand c } ∧ Climbed success s.blk.train c := by
  obtain rfl | rfl := command
  · have phase : s.blk.train.phase ∈ [Phase.initOk, .retryPending] := by
      revert legal
      cases s.blk.train.phase <;> decide
    obtain ⟨c, eq, ends⟩ := exec_trainCr phase idle
    exact ⟨c, _, eq, ends.climbed⟩
  · have phase : s.blk.train.phase = .crOk := by
      revert legal
      cases s.blk.train.phase <;> decide
    obtain ⟨c, eq, ends⟩ := exec_trainEq phase idle
    exact ⟨c, _, eq, ends.climbed⟩

/-- Settles O33: a phase that answers `Retry` or `Fatal` has taken the ladder's step from the rung it began on. -/
theorem ladderStep : Obligations.LadderStep := by
  intro i s b command legal idle ran old new p
  obtain ⟨c, success, eq, climbed⟩ := exec_phase command legal idle
  obtain rfl := exec_blk_unique ran eq
  refine ⟨fun retry => ?_, fun fatal => ?_⟩
  · have ret : c.loc.ret = .retry := ret_of_resStatus retry
    obtain ⟨t, ⟨param, lanes, rate⟩, train, step⟩ := climbed.laddered (.inl ret)
    have step := fallback_retry (step.symm.trans ret)
    rwa [← train, param, lanes, rate] at step
  · have ret : c.loc.ret = .fatal := ret_of_resStatus fatal
    obtain ⟨t, ⟨-, lanes, rate⟩, train, step⟩ := climbed.laddered (.inr ret)
    obtain ⟨low, last, step⟩ := fallback_fatal (step.symm.trans ret)
    have now : c.train = { t with phase := .failedPending } := train.trans step
    rw [endCommand_phase, now]
    refine ⟨rfl, rate.symm.trans low, lanes.symm.trans last, ?_, ?_⟩
    · exact (congrArg (fun t : TrainRegs => t.status.curRate) now).trans low
    · exact (congrArg (fun t : TrainRegs => t.status.curLanes) now).trans last

end Sys2Proof.Machine
end

section
/-! PROOFS. O36 and O38: how a session ends, and how many clock-recovery phases it runs (spec/42_link_training.md R191, R217, R226). -/

namespace Sys2Proof.Machine

open Sys2Proof

/-! ### The rungs that are left (R215 to R217) -/

/-- The lane counts below. -/
def lanesBelow : LaneCount → Nat
  | .four => 2
  | .two => 1
  | .one => 0

/-- The rungs from these registers' own down to the last: those of the lane counts below from the initial rate on, and those of this
lane count. -/
def rungsLeft (t : TrainRegs) : Nat :=
  lanesBelow t.status.curLanes * (t.sessionParam.initRate.toNat + 1) + (t.status.curRate.toNat + 1)

theorem SameRung.rungsLeft {old t : TrainRegs} (h : SameRung old t) : rungsLeft t = rungsLeft old := by
  obtain ⟨param, lanes, rate⟩ := h
  rw [Machine.rungsLeft, param, lanes, rate, Machine.rungsLeft]

/-- A seeded session has all its rungs before it (R197, R217). -/
theorem rungsLeft_seeded {p : LinkPhyParam} {t : TrainRegs} (param : t.sessionParam = p) (status : t.status = seedStatus p) :
    rungsLeft t = rungBound p.initLanes p.initRate := by
  rw [rungsLeft, param, status]
  cases h : p.initLanes <;> simp [seedStatus, lanesBelow, rungBound, h] <;> omega

/-- A step of the ladder leaves one rung less. -/
theorem rungsLeft_fallback {t : TrainRegs} (h : (fallback t).2 = .retry) : rungsLeft (fallback t).1 + 1 = rungsLeft t := by
  obtain ⟨-, -, -, ⟨high, rate, lanes⟩ | ⟨low, rate, lanes⟩⟩ := fallback_retry h
  · have positive : t.status.curRate.toNat ≠ 0 := fun zero => high (BitVec.eq_of_toNat_eq zero)
    have lower : (t.status.curRate - 1).toNat = t.status.curRate.toNat - 1 := by
      rw [BitVec.toNat_sub_of_le (BitVec.le_def.2 (by simp; omega))]
      rfl
    rw [rungsLeft, fallback_sessionParam, rate, lanes, lower, rungsLeft]
    omega
  · rw [rungsLeft, fallback_sessionParam, rate, rungsLeft, low]
    obtain ⟨four, two⟩ | ⟨two, one⟩ := lanes
    · rw [four, two]; simp [lanesBelow]; omega
    · rw [two, one]; simp [lanesBelow]

/-! ### A session (R191) -/

section
variable {st : ParamStore} {p : LinkPhyParam} {most : Nat} {P N B R : Block → Prop}

/-- A session with this store and these parameters that has begun at most this many clock-recovery phases. -/
def Within (st : ParamStore) (p : LinkPhyParam) (most : Nat) (b : Block) : Prop := ∃ sets, sets ≤ most ∧ InSession st p sets b

theorem Within.mono {less : Nat} {b : Block} (le : less ≤ most) (h : Within st p less b) : Within st p most b :=
  let ⟨sets, few, session⟩ := h
  ⟨sets, few.trans le, session⟩

/-- Before a phase: `spare` more clock-recovery phases may begin than there are rungs left. -/
def OnLadder (st : ParamStore) (p : LinkPhyParam) (most : Nat) (b : Block) : Prop :=
  ∃ sets, sets + rungsLeft b.train ≤ most ∧ InSession st p sets b

/-- How a session's code ends: in one of the two ways of R226, within its bound. -/
def SessionEnd (st : ParamStore) (p : LinkPhyParam) (most : Nat) (b : Block) : Prop := StartEnd b ∧ Within st p most b

/-- After a phase: within the bound; with `Retry`, before the next rung, and with success, before the next step. -/
def PhaseDone (success : Phase) (st : ParamStore) (p : LinkPhyParam) (most : Nat) (b : Block) : Prop :=
  Within st p most b ∧ (b.loc.ret = .retry → b.train.phase = .retryPending ∧ OnLadder st p most b) ∧
    (b.loc.ret = .ok → b.train.phase = success ∧ OnLadder st p (most + 1) b)

/-- A phase that has begun the clock recovery of its rung. -/
theorem Climbed.phaseDone {success : Phase} {old : TrainRegs} {b : Block} {sets : Nat} (h : Climbed success old b)
    (few : sets + rungsLeft old ≤ most + 1) (session : InSession st p sets b) : PhaseDone success st p most b := by
  have positive : 1 ≤ rungsLeft old := by rw [rungsLeft]; omega
  refine ⟨⟨sets, by omega, session⟩, fun retry => ?_, fun ok => ?_⟩
  · obtain ⟨t, rung, train, ret⟩ := h.laddered (.inl retry)
    have retry : (fallback t).2 = .retry := ret.symm.trans retry
    have left := rungsLeft_fallback retry
    rw [rung.rungsLeft, ← train] at left
    exact ⟨by rw [train, (fallback_retry retry).1], sets, by omega, session⟩
  · obtain ⟨-, phase, rung⟩ | ⟨t, -, -, ret⟩ | other := h
    · exact ⟨phase, sets, by rwa [rung.rungsLeft], session⟩
    · obtain ⟨end_, -⟩ | ⟨end_, -⟩ := fallback_end t <;> simp [ok, end_] at ret
    · simp [ok] at other

/-- A code without the two micro-steps that write them leaves a session within its bound. -/
theorem Triple.within {c : Code} (h : Triple boundary P c N B R) (only : c.only Act.inSession = true) :
    Triple boundary (fun b => P b ∧ Within st p most b) c (fun b => N b ∧ Within st p most b) (fun b => B b ∧ Within st p most b)
      (fun b => R b ∧ Within st p most b) :=
  sessionKeeps_carries.triple boundary_sessionKeeps (fun _ _ same ⟨sets, few, session⟩ => ⟨sets, few, session.keep same⟩) only h

theorem completedFail_session : Triple boundary (Within st p most) completedFail N B (SessionEnd st p most) :=
  ((completedFail_start (P := fun _ => True) (N := fun _ => False) (B := fun _ => False)).within rfl).weaken
    (fun _ h => ⟨trivial, h⟩) (fun _ h => h.1.elim) (fun _ h => h.1.elim) fun _ => id

theorem completedOk_session :
    Triple boundary (fun b => b.train.phase = .eqOk ∧ Within st p most b) completedOk N B (SessionEnd st p most) :=
  ((completedOk_start (N := fun _ => False) (B := fun _ => False)).within rfl).weaken
    (fun _ => id) (fun _ h => h.1.elim) (fun _ h => h.1.elim) fun _ => id

/-- Clock recovery on a rung of the ladder. -/
theorem crCode_onLadder :
    Triple boundary (fun b => b.train.phase ∈ [Phase.initOk, .retryPending] ∧ OnLadder st p most b) crCode N B
      (PhaseDone .crOk st p most) := by
  refine .ofBlock fun b₀ ⟨phase, sets, few, store, param, count⟩ => ?_
  subst param
  exact (crCode_session (st := st) (sets := sets) phase).weaken
    (fun b hb => by subst hb; exact ⟨rfl, store, rfl, count⟩) (fun _ => id) (fun _ => id)
    fun b hb => hb.1.climbed.phaseDone (by omega) hb.2

/-- Equalization on a rung whose clock recovery has begun. -/
theorem eqCode_onLadder :
    Triple boundary (fun b => b.train.phase = .crOk ∧ OnLadder st p (most + 1) b) eqCode N B (PhaseDone .eqOk st p most) := by
  refine .ofBlock fun b₀ ⟨phase, sets, few, session⟩ => ?_
  exact ((eqCode_triple_counts (N := fun _ => False) (B := fun _ => False) phase).inSession (st := st) (p := p) (sets := sets)
    rfl).weaken (fun b hb => by subst hb; exact ⟨rfl, session⟩) (fun _ h => h.1.elim) (fun _ h => h.1.elim)
    fun b hb => hb.1.climbed.phaseDone few hb.2

/-- After a phase: the session goes on where it succeeded and ends where it was aborted. -/
theorem phaseDone_next {success : Phase} :
    Triple boundary (PhaseDone success st p most) (.cond (.returned .ok) .skip completedFail)
      (fun b => b.train.phase = success ∧ OnLadder st p (most + 1) b ∧ Within st p most b) B (SessionEnd st p most) :=
  returned_triple (Triple.skip.pre fun _ ⟨⟨within, _, next⟩, ok⟩ => ⟨(next ok).1, (next ok).2, within⟩)
    (completedFail_session.pre fun _ => And.left)

/-- One rung: the session ends, or goes on one rung below. -/
theorem rungCode_session :
    Triple boundary (fun b => b.train.phase ∈ [Phase.initOk, .retryPending] ∧ OnLadder st p most b) rungCode
      (fun b => b.train.phase ∈ [Phase.initOk, .retryPending] ∧ OnLadder st p most b) B (SessionEnd st p most) := by
  have again {success : Phase} : Triple boundary (fun b => PhaseDone success st p most b ∧ b.loc.ret = .retry) .skip
      (fun b => b.train.phase ∈ [Phase.initOk, .retryPending] ∧ OnLadder st p most b) B (SessionEnd st p most) :=
    Triple.skip.pre fun b ⟨⟨_, next, _⟩, retry⟩ => ⟨by simp [(next retry).1], (next retry).2⟩
  exact .seq (.call crCode_onLadder) <| returned_triple again <| .seq phaseDone_next <|
    .seq (.call (eqCode_onLadder.pre fun _ ⟨phase, ladder, _⟩ => ⟨phase, ladder⟩)) <| returned_triple again <|
    .seq phaseDone_next <| completedOk_session.pre fun _ ⟨phase, _, within⟩ => ⟨phase, within⟩

end

/-- The session, from the host's state: within the bound of its initial lane count and rate. -/
theorem startCode_session {st : ParamStore} {sets : Nat} {N B : Block → Prop} :
    Triple boundary (fun b => b.train.phase ∈ startPhases ∧ b.store = st ∧ rateSets b = sets) startCode N B
      (SessionEnd { st with configLocked := true } st.defaultParam
        (sets + rungBound st.defaultParam.initLanes st.defaultParam.initRate)) := by
  refine .ofBlock fun b₀ ⟨phase, store, count⟩ => phaseIn_triple (fun b hb => by rwa [hb]) <|
    .seq (.call ((initCode_session (st := st) (status := b₀.train.status) (sets := sets)).pre
      fun b hb => by subst hb; exact ⟨phase, store, rfl, count⟩)) <|
    .seq (returned_triple (Triple.skip.pre ?_) (completedFail_session.pre ?_)) <|
    .seq (.loop rungCode_session fun _ ⟨_, left, few, session⟩ => ⟨left, by omega, session⟩) completedFail_session
  · rintro b ⟨⟨⟨-, phase, param, -, status⟩ | ⟨⟨ret, -⟩, -⟩, session⟩, ok⟩
    · exact ⟨by simp [phase], sets, by rw [rungsLeft_seeded param status], session⟩
    · simp [ok] at ret
  · exact fun b ⟨_, session⟩ => ⟨sets, by omega, session⟩

/-- `TRAIN.START` from the host's state. -/
theorem exec_trainStart {s : State} (phase : s.blk.train.phase ∈ [Phase.idle, .done, .failed]) (idle : s.blk.aux.fsm = .idle) :
    ∃ c, exec .trainStart s = .next { s with blk := endCommand c } ∧
      SessionEnd { s.blk.store with configLocked := true } s.blk.store.defaultParam
        (rateSets s.blk + rungBound s.blk.store.defaultParam.initLanes s.blk.store.defaultParam.initRate) c ∧
      Steady (log (.cmdStart 0x02) s.blk) c := by
  obtain ⟨c, eq, ends, -, steady⟩ := exec_of_triple (i := .trainStart)
    (startCode_session (st := s.blk.store) (sets := rateSets s.blk)) idle ⟨phase, rfl, rateSets_log rfl _⟩
  exact ⟨c, eq, ends, steady⟩

/-- Settles O36: the session ends in one of two ways, with the store it locked and the parameters it took. -/
theorem startOutcome : Obligations.StartOutcome := by
  intro s phase idle
  obtain ⟨c, eq, ⟨ends, sets, -, store, param, -⟩, -⟩ := exec_trainStart phase idle
  refine ⟨endCommand c, eq, store, param, ?_⟩
  obtain ⟨ret, success⟩ | ⟨ret, fatal⟩ := ends
  · exact .inl ⟨endCommand_resStatus_of ret, success.endCommand⟩
  · exact .inr ⟨endCommand_resStatus_of ret, fatal.endCommand⟩

/-- Settles O38: every clock-recovery phase uses up a rung, and a session begins with as many as the bound. -/
theorem ladderBound : Obligations.LadderBound := by
  intro s phase idle
  obtain ⟨c, eq, ⟨-, sets, few, -, -, count⟩, steady⟩ := exec_trainStart phase idle
  obtain ⟨d, hist⟩ := steady.hist
  refine ⟨endCommand c, .cmdStart 0x02 :: d ++ [.cmdEnd c.loc.ret], eq, by simp [← hist], ?_⟩
  have all : rateSets c = rateSets s.blk + d.countP Event.isRateSet := by
    rw [rateSets, ← hist, List.countP_append]
    exact congrArg (· + _) (rateSets_log (e := .cmdStart 0x02) rfl s.blk)
  have ends : (Event.cmdStart 0x02 :: d ++ [Event.cmdEnd c.loc.ret]).countP Event.isRateSet = d.countP Event.isRateSet := by
    simp [Event.isRateSet]
  omega

end Sys2Proof.Machine
end

section
/-! PROOFS. O25: initialization with known answers (spec/42_link_training.md R192 to R199). -/

namespace Sys2Proof.Machine

open Sys2Proof

section
variable {t : TrainRegs} {p : PhyRegs} {st : ParamStore} {h : List Event} {as : List AuxAnswer} {N B R : Block → Prop}

/-- The capability read that is wholly acknowledged (R193). -/
theorem checkedCapability_exactly {cap : Buf} :
    Triple boundary (Exactly t p st h (ackRead 16 cap :: as)) (checked .capability)
      (Exactly { t with cap := cap } p st (h ++ [.auxIssue 0x9000000F false [], answerEvent (ackRead 16 cap)]) as) B R := by
  have whole : WholeAck .capability (ackRead 16 cap) := ⟨_, _, rfl, rfl, rfl, rfl, rfl⟩
  refine At.checked whole (fun _ _ => rfl) (fun _ _ => rfl) fun b c hb keeps eq => ?_
  have read : c.train.cap = cap := by
    have data : (Access.result .capability (ackRead 16 cap)).data = cap.first 16 := result_data rfl whole
    rw [eq, accessResult_whole whole, data]
    exact Vector.ext fun i hi => by simp [Access.store, Buf.put_first_get _ cap hi hi]
  rw [keeps.train, keeps.lstat nofun, read, hb.regs.1]

/-- FEC ready, where FEC is asked for, and framing (R194). -/
theorem framingCode_exactly {d : Buf} :
    Triple boundary (Exactly t p st h ((if t.sessionParam.fecEn then [ackWrite d] else []) ++ as)) framingCode
      (Exactly t { p with framing := .known (sessionFraming t.sessionParam) } st
        (h ++ ((if t.sessionParam.fecEn then [.auxIssue 0x80012000 false [0x01], answerEvent (ackWrite d)] else []) ++
          [.hwOp (.setFramingMode (sessionFraming t.sessionParam)) false])) as) B R := by
  have framing {h : List Event} : Triple boundary (Exactly t p st h as) (.act (.phy .framing))
      (Exactly t { p with framing := .known (sessionFraming t.sessionParam) } st
        (h ++ [.hwOp (.setFramingMode (sessionFraming t.sessionParam)) false]) as) B R :=
    At.phyCmd (.setFramingMode (sessionFraming t.sessionParam)) rfl (fun _ => rfl) (fun b regs => by rw [← regs.1]; rfl) fun _ => rfl
  cases asked : t.sessionParam.fecEn with
  | true =>
    refine .seq (.condTrue (fun b hb => by rw [evalTest, hb.regs.1, asked])
      (At.checkedWrite (issue := .auxIssue 0x80012000 false [0x01]) rfl (fun _ _ => rfl) fun _ _ => rfl)) (framing.post fun b hb => ?_)
    simpa using hb
  | false => exact .seq (.condFalse (fun b hb => by rw [evalTest, hb.regs.1, asked]) Triple.skip) framing

/-- The events of initialization (R192 to R199), with its answers. -/
def initEvents (q : LinkPhyParam) (cap d1 d2 d3 : Buf) : List Event :=
  [.auxIssue 0x9000000F false [], answerEvent (ackRead 16 cap)] ++
    ((if q.fecEn then [.auxIssue 0x80012000 false [0x01], answerEvent (ackWrite d1)] else []) ++
      [.hwOp (.setFramingMode (sessionFraming q)) false]) ++
    [.auxIssue 0x80010700 false [downspreadByte q.sscEn], answerEvent (ackWrite d2), .auxIssue 0x80010800 false [0x01],
      answerEvent (ackWrite d3), .hwOp (.enableXmit (laneMask q.initLanes)) false]

/-- The training registers after an initialization that succeeded (R192 to R199). -/
def initialized (t : TrainRegs) (q : LinkPhyParam) (cap : Buf) : TrainRegs :=
  { t with
    sessionParam := q, resultValid := false, cap := cap, status := seedStatus q, eqTps := Config.selectEqTps q.eqTps cap
    phase := .initOk }

/-- Initialization with every access wholly acknowledged. -/
theorem initCode_exactly {cap d1 d2 d3 : Buf} (phase : t.phase ∈ startPhases) :
    Triple boundary
      (Exactly t p st h (ackRead 16 cap :: ((if st.defaultParam.fecEn then [ackWrite d1] else []) ++ ackWrite d2 :: ackWrite d3 :: as)))
      initCode N B
      (Converged (initialized t st.defaultParam cap)
        { p with
          framing := .known (sessionFraming st.defaultParam), xmitMask := .known (laneMask st.defaultParam.initLanes) }
        { st with configLocked := true } (h ++ initEvents st.defaultParam cap d1 d2 d3) as) := by
  have begins {as : List AuxAnswer} {R : Block → Prop} : Triple boundary (Exactly t p st h as) (.act (.upd .initBegin))
      (Exactly { t with sessionParam := st.defaultParam, resultValid := false } p { st with configLocked := true } h as) B R :=
    At.act rfl fun b hb => by
      obtain ⟨quiet, ⟨rfl, rfl, rfl⟩, hist, answers⟩ := hb
      exact ⟨quiet, ⟨rfl, rfl, rfl⟩, hist, answers⟩
  refine phaseIn_triple (fun b hb => by rwa [hb.regs.1]) <| .seq begins <| .seq checkedCapability_exactly <|
    .seq framingCode_exactly <|
    .seq (At.checkedWrite (issue := .auxIssue 0x80010700 false [downspreadByte st.defaultParam.sscEn]) rfl (fun _ _ => rfl) ?_) <|
    .seq (At.checkedWrite (issue := .auxIssue 0x80010800 false [0x01]) rfl (fun _ _ => rfl) fun _ _ => rfl) <|
    .seq (At.upd (f := fun t => { t with status := seedStatus t.sessionParam }) rfl fun _ => rfl) <|
    .seq (At.upd (f := fun t => { t with eqTps := Config.selectEqTps t.sessionParam.eqTps t.cap }) rfl fun _ => rfl) <|
    .seq (At.phyCmd (.enableXmit (laneMask st.defaultParam.initLanes)) rfl (fun _ => rfl) ?_ fun _ => rfl) <|
    .seq (At.upd (f := fun t => { t with phase := .initOk }) rfl fun _ => rfl) <|
    .ret fun b hb => ⟨rfl, hb.quiet, hb.regs, ?_, hb.answers⟩
  · exact fun b regs => by rw [Access.issueEvent, Access.data, regs.1]; rfl
  · exact fun b regs => by rw [PhyAct.command, regs.1]; rfl
  · simpa [initEvents] using hb.hist

end

/-- Settles O25: initialization from the host's state, with its registers and its history read off. -/
theorem initCompletes : Obligations.InitCompletes := by
  intro s cap d1 d2 d3 rest p phase idle quiet answers
  have start := exactly_start (.cmdStart 0x03) quiet
  rw [answers] at start
  obtain ⟨c, eq, ⟨ret, -, ⟨train, phy, store⟩, hist, -⟩, -, -⟩ :=
    exec_of_triple (i := .trainInit) (initCode_exactly phase) idle start
  rw [List.filter_true] at hist
  refine ⟨endCommand c, eq, endCommand_resStatus_of ret, ?_, store, phy, ?_⟩
  · exact congrArg (fun t : TrainRegs => { t with micro := none }) train
  · rw [endCommand_hist, ret, hist]
    simp [initEvents, sessionFraming, downspreadByte, p]

end Sys2Proof.Machine
end

section
/-! PROOFS. O28 and O31: the phases that give up, with known answers (spec/42_link_training.md R207 to R216). -/

namespace Sys2Proof.Machine

open Sys2Proof

/-! ### Counting the issues (R202 to R204) -/

theorem answerEvent_isIssue (x : AuxAnswer) : (answerEvent x).isIssue = false := by cases x <;> rfl

/-- `ProgramDrive()` issues nothing (R178). -/
theorem driveEvents_issues (table : ParamStore) (st : LinkPhyStatus) : (driveEvents table st).countP Event.isIssue = 0 := by
  refine List.countP_eq_zero.2 fun e he => ?_
  obtain ⟨i, -, he⟩ := List.mem_flatMap.1 he
  split at he
  · obtain log | cmd := List.mem_append.1 he
    · split at log
      · rw [List.mem_singleton.1 log]; exact Bool.false_ne_true
      · cases log
    · rw [List.mem_singleton.1 cmd]; exact Bool.false_ne_true
  · cases he

/-- An iteration issues three requests. -/
theorem iterationEvents_issues (table : ParamStore) (p : LinkPhyParam) (st : LinkPhyStatus) (x : Pattern) (byte : Byte)
    (wait : DelayLabel) (a1 a2 a3 : AuxAnswer) :
    (iterationEvents table p st x byte wait a1 a2 a3).countP Event.isIssue = 3 := by
  rw [iterationEvents, List.countP_append, driveEvents_issues]
  simp only [List.countP_cons, answerEvent_isIssue]
  rfl

/-! ### An iteration that changes nothing (R206, R207) -/

/-- The training registers after an iteration whose status asks for the levels sent. -/
def unchanged (t : TrainRegs) (d : Buf) : TrainRegs :=
  { t with micro := some .adjustOrFallback, lstat := sixBytes d, notUpdated := t.notUpdated + 1, retry := t.retry + 1 }

theorem afterIteration_eq_unchanged {t : TrainRegs} {d : Buf}
    (h : ∀ i : Lane, i.val < t.status.curLanes.toNat → laneAsks (sixBytes d) i t.status.swing[i] t.status.preemp[i]) :
    afterIteration t d = unchanged t d := by
  rw [afterIteration, adjust_unchanged h]
  rfl

/-- Clock recovery is not done on some active lane (R103). -/
theorem crOk_of_lost {l : Vector Byte 6} {n : LaneCount} (h : ∃ i : Lane, i.val < n.toNat ∧ laneCr l i = false) :
    crOk l n = false := by
  rw [← Bool.not_eq_true, crOk_iff]
  obtain ⟨i, active, lost⟩ := h
  exact fun all => by simp [all i active] at lost

section
variable {t : TrainRegs} {p : PhyRegs} {st : ParamStore} {h : List Event} {as : List AuxAnswer} {n : Nat} {N B R : Block → Prop}

/-- `n` requests have been issued since the history was `h`; everything else is known but the shadows. -/
def Issued (n : Nat) (t : TrainRegs) (st : ParamStore) (h : List Event) (as : List AuxAnswer) (b : Block) : Prop :=
  ∃ p l, l.countP Event.isIssue = n ∧ Exactly t p st (h ++ l) as b

/-- One more iteration of clock recovery whose status asks for the levels sent: the loop goes on, or is left at its bound. -/
theorem crIteration_unchanged {d1 d2 d3 : Buf} (bound : Bool) (notDone : crOk (sixBytes d3) t.status.curLanes = false)
    (same : ∀ i : Lane, i.val < t.status.curLanes.toNat → laneAsks (sixBytes d3) i t.status.swing[i] t.status.preemp[i])
    (test : boundReached (unchanged t d3) Config.crRetry = bound) :
    Triple boundary (Issued n t st h (ackWrite d1 :: ackWrite d2 :: ackRead 6 d3 :: as)) crIteration
      (fun b => bound = false ∧ Issued (n + 3) (unchanged t d3) st h as b)
      (fun b => bound = true ∧ Issued (n + 3) (unchanged t d3) st h as b) R := by
  rintro b idle ⟨p, l, count, hb⟩
  have issued {b : Block} {p : PhyRegs} (hb : Exactly (afterIteration t d3) p st (h ++ l ++
      iterationEvents st t.sessionParam t.status .tps1 0x21 .crDelay (ackWrite d1) (ackWrite d2) (ackRead 6 d3)) as b) :
      Issued (n + 3) (unchanged t d3) st h as b := by
    rw [afterIteration_eq_unchanged same, List.append_assoc] at hb
    exact ⟨_, _, by rw [List.countP_append, count, iterationEvents_issues], hb⟩
  have test {b : Block} {p : PhyRegs} {h : List Event} {as : List AuxAnswer} (hb : Exactly (afterIteration t d3) p st h as b) :
      evalTest (.bound Config.crRetry) b = bound := by
    rw [evalTest, hb.regs.1, afterIteration_eq_unchanged same, test]
  refine iteration_exactly (t := t) false .crDelay (.seq
    (.condFalse (fun b hb => by simpa [evalTest, hb.regs.1] using notDone) Triple.skip) <|
    .seq At.mark <| .seq (At.upd (f := adjust) rfl fun _ => rfl) <|
    .seq (At.upd (f := fun t => { t with retry := t.retry + 1 }) rfl fun _ => rfl) <|
    .cond (Triple.brk.pre fun b hb => ?_) (Triple.skip.pre fun b hb => ?_)) b idle hb
  · exact ⟨(test hb.1).symm.trans hb.2, issued hb.1⟩
  · exact ⟨(test hb.1).symm.trans hb.2, issued hb.1⟩

theorem fallback_lstat (t : TrainRegs) : (fallback t).1.lstat = t.lstat := by
  obtain ⟨-, eq⟩ | ⟨n, -, -, eq⟩ | ⟨-, -, eq⟩ := fallback_cases t <;> rw [eq] <;> rfl

/-- The ladder's step was taken from these registers, after `n` requests. -/
def GivesUp (n : Nat) (t : TrainRegs) (st : ParamStore) (h : List Event) (as : List AuxAnswer) (b : Block) : Prop :=
  b.loc.ret = (fallback t).2 ∧ Issued n (fallback t).1 st h as b

/-- The ladder's step from known registers (R208, R215). -/
theorem fallbackCode_issued :
    Triple boundary (Issued n t st h as) fallbackCode N B (GivesUp n { t with micro := some .adjustOrFallback } st h as) := by
  let t' : TrainRegs := { t with micro := some .adjustOrFallback }
  rintro b idle ⟨p, l, count, hb⟩
  have code : Triple boundary (Exactly t p st (h ++ l) as) fallbackCode N B (GivesUp n t' st h as) := by
    refine .seq At.mark <| .seq (M := fun b => b.loc.st = (fallback t').2 ∧ Exactly (fallback t').1 p st (h ++ l) as b) (At.act rfl ?_) <|
      .retSt fun b hb => ⟨hb.1, p, l, count, hb.2.quiet, hb.2.regs, hb.2.hist, hb.2.answers⟩
    rintro b ⟨quiet, ⟨train, phy, store⟩, hist, answers⟩
    have step : fallback b.train = fallback t' := congrArg fallback train
    exact ⟨congrArg Prod.snd step, quiet, ⟨congrArg Prod.fst step, phy, store⟩, hist, answers⟩
  exact code b idle hb

/-- The training registers after five iterations whose statuses ask for the levels sent, the last of them this one. -/
def stuck (t : TrainRegs) (d : Buf) : TrainRegs :=
  { t with micro := some .adjustOrFallback, lstat := sixBytes d, notUpdated := 5, retry := 5 }

/-- The answers to five iterations that are wholly acknowledged. -/
def fiveRounds (w : Fin 10 → Buf) (r : Fin 5 → Buf) : List AuxAnswer :=
  [ackWrite (w 0), ackWrite (w 1), ackRead 6 (r 0), ackWrite (w 2), ackWrite (w 3), ackRead 6 (r 1), ackWrite (w 4), ackWrite (w 5),
    ackRead 6 (r 2), ackWrite (w 6), ackWrite (w 7), ackRead 6 (r 3), ackWrite (w 8), ackWrite (w 9), ackRead 6 (r 4)]

/-- The entry and five iterations that change nothing, the fifth at the bound (R201, R207, R209). -/
theorem crCode_givesUp {w : Fin 10 → Buf} {r : Fin 5 → Buf} (phase : t.phase ∈ [Phase.initOk, .retryPending])
    (notDone : ∀ k, crOk (sixBytes (r k)) t.status.curLanes = false)
    (same : ∀ k, ∀ i : Lane, i.val < t.status.curLanes.toNat → laneAsks (sixBytes (r k)) i t.status.swing[i] t.status.preemp[i]) :
    Triple boundary (fun b => Exactly t p st h (fiveRounds w r ++ as) b ∧ PhyOk b) crCode N B
      (GivesUp 15 (stuck t (r 4)) st h as) := by
  have goesOn (k : Fin 5) {n : Nat} {t' : TrainRegs} {d1 d2 : Buf} {as : List AuxAnswer} {B R : Block → Prop}
      (status : t'.status = t.status) (below : boundReached (unchanged t' (r k)) Config.crRetry = false) :
      Triple boundary (Issued n t' st h (ackWrite d1 :: ackWrite d2 :: ackRead 6 (r k) :: as)) crIteration
        (Issued (n + 3) (unchanged t' (r k)) st h as) B R :=
    (crIteration_unchanged false (by rw [status]; exact notDone k) (by rw [status]; exact same k) below).weaken (fun _ => id)
      (fun _ => And.right) (fun _ h => absurd h.1 (by decide)) fun _ => id
  have last {t' : TrainRegs} {d1 d2 : Buf} {R : Block → Prop} (status : t'.status = t.status)
      (reached : boundReached (unchanged t' (r 4)) Config.crRetry = true) :
      Triple boundary (Issued 12 t' st h (ackWrite d1 :: ackWrite d2 :: ackRead 6 (r 4) :: as)) crIteration (fun _ => False)
        (Issued 15 (unchanged t' (r 4)) st h as) R :=
    (crIteration_unchanged true (by rw [status]; exact notDone 4) (by rw [status]; exact same 4) reached).weaken (fun _ => id)
      (fun _ h => absurd h.1 (by decide)) (fun _ => And.right) fun _ => id
  have loop {R : Block → Prop} :
      Triple boundary (Issued 0 { t with micro := none, retry := 0, notUpdated := 0 } st h (fiveRounds w r ++ as))
      (.loop Config.crRetry crIteration) (Issued 15 (stuck t (r 4)) st h as) B R :=
    .loopStep (goesOn 0 rfl rfl) <| .loopStep (goesOn 1 rfl rfl) <| .loopStep (goesOn 2 rfl rfl) <| .loopStep (goesOn 3 rfl rfl) <|
      .loopStep (last rfl rfl) (.absurd fun _ => id)
  exact crCode_exactly phase <| (Triple.seq loop (fallbackCode_issued (t := stuck t (r 4)))).pre fun b hb =>
    ⟨_, crEntryEvents t.status, rfl, hb⟩

/-- Equalization whose first status shows clock recovery lost: the loop is left before anything is counted (R212). -/
theorem eqCode_losesClock {d1 d2 d3 : Buf} (phase : t.phase = .crOk) (lost : crOk (sixBytes d3) t.status.curLanes = false) :
    Triple boundary (Exactly t p st h (ackWrite d1 :: ackWrite d2 :: ackRead 6 d3 :: as)) eqCode N B
      (GivesUp 3 { t with micro := some .adjustOrFallback, lstat := sixBytes d3, notUpdated := 0, retry := 0 } st h as) := by
  let left : TrainRegs := { t with micro := some .convergenceCheck, lstat := sixBytes d3, notUpdated := 0, retry := 0 }
  have iteration {R : Block → Prop} : Triple boundary
      (Exactly { t with micro := none, retry := 0, notUpdated := 0 } p st h (ackWrite d1 :: ackWrite d2 :: ackRead 6 d3 :: as)) eqIteration
      (fun _ => False) (Issued 3 left st h as) R :=
    iteration_exactly true .eqDelay <| .seq (M := fun _ => False) (.condFalse (fun b hb => by simpa [evalTest, hb.regs.1] using lost)
      (Triple.brk.pre fun b hb => ⟨_, _, iterationEvents_issues .., hb⟩)) (.absurd fun _ => id)
  exact phaseIn_triple (fun b hb => by simp [hb.regs.1, phase]) <| .seq At.mark <|
    .seq (At.upd (f := fun t => { t with retry := 0, notUpdated := 0 }) rfl fun _ => rfl) <|
    .seq (.loopStep (M := fun _ => False) iteration (.absurd fun _ => id)) (fallbackCode_issued (t := left))

/-- The ladder's step in each of its three cases (R215, R216). -/
theorem GivesUp.ladder {c : Block} (gaveUp : GivesUp n t st h as c) :
    (t.status.curRate ≠ 0 →
      (endCommand c).port.resStatus = 5 ∧ c.train.phase = .retryPending ∧
        c.train.status = { t.status with
          curRate := t.status.curRate - 1, swing := t.sessionParam.initSwing, preemp := t.sessionParam.initPreemp }) ∧
    (t.status.curRate = 0 → t.status.curLanes ≠ .one →
      (endCommand c).port.resStatus = 5 ∧ c.train.phase = .retryPending ∧
        c.train.status = { t.status with
          curLanes := if t.status.curLanes = .four then .two else .one
          curRate := t.sessionParam.initRate, swing := t.sessionParam.initSwing, preemp := t.sessionParam.initPreemp }) ∧
    (t.status.curRate = 0 → t.status.curLanes = .one →
      (endCommand c).port.resStatus = 6 ∧ c.train.phase = .failedPending ∧ c.train.status = t.status) := by
  obtain ⟨ret, p, l, -, -, ⟨train, -⟩, -⟩ := gaveUp
  rw [endCommand_resStatus, ret, train]
  refine ⟨fun high => ?_, fun low more => ?_, fun low last => ?_⟩
  · rw [fallback, if_neg high]
    exact ⟨rfl, rfl, rfl⟩
  · rw [fallback, if_pos low]
    cases lanes : t.status.curLanes with
    | one => exact absurd lanes more
    | two => exact ⟨rfl, rfl, rfl⟩
    | four => exact ⟨rfl, rfl, rfl⟩
  · rw [fallback, if_pos low, last]
    exact ⟨rfl, rfl, rfl⟩

/-- A command whose phase gave up: how many requests it issued, and the registers the ladder's step leaves. -/
theorem exec_givesUp {i : Instr} {s : State} {P : Block → Prop}
    (code : ∀ {N B : Block → Prop}, Triple boundary P (codeOf i) N B (GivesUp n t st (s.blk.hist ++ [.cmdStart (opcodeOf i)]) as))
    (idle : s.blk.aux.fsm = .idle) (start : P (log (.cmdStart (opcodeOf i)) s.blk)) :
    ∃ c d, exec i s = .next { s with blk := endCommand c } ∧ (∃ h, GivesUp n t st h as c) ∧ c.train = (fallback t).1 ∧
      (endCommand c).hist = s.blk.hist ++ d ∧ d.countP Event.isIssue = n := by
  obtain ⟨c, eq, gaveUp, -, -⟩ := exec_of_triple (code (N := GivesUp n t st _ as)) idle start
  obtain ⟨-, p, l, count, -, ⟨train, -⟩, hist, -⟩ := id gaveUp
  rw [List.filter_true] at hist
  refine ⟨c, .cmdStart (opcodeOf i) :: l ++ [.cmdEnd c.loc.ret], eq, ⟨_, gaveUp⟩, train, ?_, ?_⟩
  · rw [endCommand_hist, hist]; simp
  · simp [Event.isIssue, count]

end

/-- Settles O28: five iterations that change nothing, then the ladder's step. -/
theorem crGivesUp : Obligations.CrGivesUp := by
  intro s w r rest status phase idle quiet phyOk answers lost same
  have start := exactly_start (.cmdStart 0x04) quiet
  rw [answers] at start
  obtain ⟨c, d, eq, ⟨_, gaveUp⟩, train, hist, count⟩ := exec_givesUp (i := .trainCr)
    (crCode_givesUp (w := w) (r := r) phase (fun k => crOk_of_lost (lost k)) same) idle ⟨start, phyOk⟩
  obtain ⟨retry, notUpdated⟩ := fallback_counters (stuck s.blk.train (r 4))
  refine ⟨endCommand c, d, eq, ?_, ?_, ?_, hist, count, gaveUp.ladder⟩
  · rw [endCommand_retry, train, retry]; rfl
  · rw [endCommand_notUpdated, train, notUpdated]; rfl
  · rw [endCommand_lstat, train, fallback_lstat]; rfl

/-- Settles O31: one iteration that is left at its test of clock recovery, then the ladder's step. -/
theorem eqLosesClock : Obligations.EqLosesClock := by
  intro s d1 d2 d3 rest status phase idle quiet answers lost
  have start := exactly_start (.cmdStart 0x05) quiet
  rw [answers] at start
  obtain ⟨c, d, eq, ⟨_, gaveUp⟩, train, -, -⟩ := exec_givesUp (i := .trainEq)
    (eqCode_losesClock phase (crOk_of_lost lost)) idle start
  obtain ⟨retry, notUpdated⟩ := fallback_counters
    { s.blk.train with micro := some .adjustOrFallback, lstat := sixBytes d3, notUpdated := 0, retry := 0 }
  refine ⟨endCommand c, eq, ?_, ?_, gaveUp.ladder⟩
  · rw [endCommand_retry, train, retry]
  · rw [endCommand_notUpdated, train, notUpdated]

end Sys2Proof.Machine
end

section
/-! PROOFS. O37: a session in which everything is acknowledged and both phases converge at once (spec/42_link_training.md R191). -/

namespace Sys2Proof.Machine

open Sys2Proof

/-! ### Agents that do nothing of their own -/

/-- No service comes between, and the PHY is ready. -/
def Undisturbed (b : Block) : Prop := Quiet b ∧ PhyOk b

theorem Undisturbed.of_eq {a b : Block} (svc : b.svc = a.svc) (env : b.env = a.env) (h : Undisturbed a) : Undisturbed b := by
  simpa only [Undisturbed, Quiet, PhyOk, svc, env] using h

/-- The AUX-channel agent's answer leaves what the other agents have to come. -/
theorem nextAux_others (e : Env) (q : ReqReg) (w : Buf) :
    (e.nextAux q w).2.phy = e.phy ∧ (e.nextAux q w).2.phyReady = e.phyReady ∧ (e.nextAux q w).2.irq = e.irq ∧
      (e.nextAux q w).2.irqQuiet = e.irqQuiet := by
  cases answers : e.aux with
  | cons x xs => rw [nextAux_cons answers]; simp
  | nil =>
    cases sink : e.sink with
    | none => simp [Env.nextAux, answers, sink]
    | some k => simp [Env.nextAux, answers, sink]

theorem accessIssue_undisturbed {a : Access} {b : Block} (h : Undisturbed b) : Undisturbed (accessIssue a b).2 := by
  cases fsm : b.aux.fsm with
  | idle => rw [accessIssue_idle fsm, auxIssue_idle fsm]; exact h
  | wait => rw [accessIssue, auxIssue_wait fsm]; exact h

theorem accessComplete_undisturbed {a : Access} {b : Block} (h : Undisturbed b) : Undisturbed (accessComplete a b) := by
  cases fsm : b.aux.fsm with
  | idle => rwa [accessComplete, auxComplete_idle fsm]
  | wait =>
    obtain ⟨phy, ready, irq, quiet⟩ := nextAux_others b.env b.aux.req b.aux.wdata
    rw [accessComplete, auxComplete_wait fsm]
    simpa [Undisturbed, Quiet, PhyOk, accessResult_svc, accessResult_env, phy, ready, irq, quiet] using h

theorem phyAct_undisturbed {c : PhyAct} {b : Block} (h : Undisturbed b) : Undisturbed (phyAct c b) := by
  have env : (phyAct c b).env = b.env := by
    obtain ⟨-, phy, ready⟩ := h
    cases waits : (c.command b).waits <;> simp [phyAct, hwOp, waits, Env.nextPhy, phy, ready]
  exact h.of_eq (phyAct_svc c b) env

theorem undisturbed_carries : Carries Act.ofInit fun a b => Undisturbed a → Undisturbed b where
  refl _ := id
  trans _ _ _ h k := k ∘ h
  act a ha b := by
    cases a with
    | issue a => exact accessIssue_undisturbed
    | complete a => exact accessComplete_undisturbed
    | phy c => exact phyAct_undisturbed
    | upd u =>
      cases u with
      | initBegin => exact id
      | seedStatus => exact id
      | selectEq => exact id
      | setPhase => exact id
      | _ => cases ha
    | _ => cases ha
  mark _ _ := id
  returning _ _ := id
  raise _ _ := id

theorem boundary_undisturbed (b : Block) (h : Undisturbed b) : Undisturbed (boundary b) := by
  rwa [boundary_quiet h.1]

section
variable {t : TrainRegs} {p : PhyRegs} {st : ParamStore} {h : List Event} {as : List AuxAnswer} {N B R : Block → Prop}

/-! ### The completion with known answers (R219 to R225) -/

/-- The training registers after a completion that succeeded, without FEC. -/
def doneTrain (t : TrainRegs) : TrainRegs :=
  { t with
    micro := none, status := negotiate { t.status with fecActive := false }
    result := negotiate { t.status with fecActive := false }, resultValid := true, phase := .done }

/-- Completion after equalization, without FEC. -/
theorem completedOk_exactly {d : Buf} (phase : t.phase = .eqOk) (asked : t.sessionParam.fecEn = false) :
    Triple boundary (Exactly t p st h (ackWrite d :: as)) completedOk N B
      (Converged (doneTrain t) { p with pattern := .known .none, video := .known false } st (h ++ teardownEvents (ackWrite d)) as) := by
  have whole : WholeAck .idlePattern (ackWrite d) := ⟨_, _, rfl, rfl, rfl, rfl, by simp [Access.isWrite, ackStatus]⟩
  have teardown {R : Block → Prop} : Triple boundary (Exactly t p st h (ackWrite d :: as)) teardownCode
      (Exactly { t with micro := none } { p with pattern := .known .none, video := .known false } st
        (h ++ teardownEvents (ackWrite d)) as) B R := by
    refine .seq At.mark <| .seq (At.phyCmd (.setPattern .none) rfl (fun _ => rfl) (fun _ _ => rfl) fun _ => rfl) <|
      .seq (At.access_keeps (issue := .auxIssue 0x80010200 false [0x00]) nofun nofun whole.not_defers (fun _ _ => rfl) (.inr whole)
        fun _ _ => rfl) <|
      (At.phyCmd (.videoEnable false) rfl (fun _ => rfl) (fun _ _ => rfl) fun _ => rfl).post fun b hb => ?_
    simpa [teardownEvents, HwCmd.shadow] using hb
  exact phaseIn_triple (fun b hb => by simp [hb.regs.1, phase]) <| .seq teardown <|
    .seq (.condFalse (fun b hb => by rw [evalTest, hb.regs.1, asked])
      (At.upd (f := fun t => { t with status.fecActive := false }) rfl fun _ => rfl)) <|
    .seq (At.upd (f := fun t => { t with status := negotiate t.status }) rfl fun _ => rfl) <|
    .seq (At.upd (f := fun t => { t with result := t.status, resultValid := true, phase := .done }) rfl fun _ => rfl) <|
    .ret fun b hb => ⟨rfl, hb.quiet, hb.regs, hb.hist, hb.answers⟩

/-! ### The session (R191) -/

/-- The teardown issues one request (R220). -/
theorem teardownEvents_issues (x : AuxAnswer) : (teardownEvents x).countP Event.isIssue = 1 := by
  simp only [teardownEvents, List.countP_cons, answerEvent_isIssue]
  rfl

/-- After a call that returned `OK`, both tests of the status go on. -/
theorem returnedOk_exactly {fail rest : Code} (next : Triple boundary (Exactly t p st h as) rest N B R) :
    Triple boundary (Converged t p st h as) (.cond (.returned .retry) .skip (.seq (.cond (.returned .ok) .skip fail) rest)) N B R :=
  .condFalse (fun b hb => by rw [evalTest, hb.1]; rfl) <| .seq (.condTrue (fun b hb => by rw [evalTest, hb.1]; rfl)
    (Triple.skip.pre fun _ => And.right)) next

/-- The training registers at the end of a session whose last status is this one. -/
def sessionTrain (t : TrainRegs) (d : Buf) : TrainRegs :=
  doneTrain { t with retry := 0, notUpdated := 0, lstat := sixBytes d, phase := .eqOk }

/-- A session ended `OK` after `n` requests: the training registers, the link as it runs (R205), and the lines torn down (R220). -/
structure SessionOk (n : Nat) (t : TrainRegs) (h : List Event) (b : Block) : Prop where
  ret : b.loc.ret = .ok
  train : b.train = t
  lanes : b.phy.lanes = .known t.status.curLanes
  rate : b.phy.rate = .known t.status.curRate
  xmitMask : b.phy.xmitMask = .known (laneMask t.status.curLanes)
  pattern : b.phy.pattern = .known .none
  video : b.phy.video = .known false
  hist : ∃ l, b.hist = h ++ l ∧ l.countP Event.isIssue = n

theorem SessionOk.successEnd {n : Nat} {d : Buf} {b : Block} (ok : SessionOk n (sessionTrain t d) h b) : SuccessEnd (endCommand b) := by
  have train : (endCommand b).train = sessionTrain t d := congrArg (fun t : TrainRegs => { t with micro := none }) ok.train
  rw [SuccessEnd, train]
  exact ⟨rfl, rfl, rfl, rfl, rfl, ok.pattern, ok.video⟩

/-- The requests made before count too. -/
theorem SessionOk.after {m n : Nat} {l : List Event} {b : Block} (before : l.countP Event.isIssue = m) (ok : SessionOk n t (h ++ l) b) :
    SessionOk (m + n) t h b := by
  obtain ⟨l', hist, count⟩ := ok.hist
  exact { ok with hist := ⟨l ++ l', by rw [hist, List.append_assoc], by rw [List.countP_append, before, count]⟩ }

/-- Initialization without FEC makes three requests. -/
theorem initEvents_issues {q : LinkPhyParam} {cap d1 d2 d3 : Buf} (asked : q.fecEn = false) :
    (initEvents q cap d1 d2 d3).countP Event.isIssue = 3 := by
  simp only [initEvents, asked, List.countP_append, List.countP_cons, answerEvent_isIssue]
  rfl

/-- A rung in which both phases converge at once and the session is completed without FEC. -/
theorem rungCode_converges {d1 d2 d3 d4 d5 d6 d7 : Buf} (phase : t.phase ∈ [Phase.initOk, .retryPending])
    (cr : crOk (sixBytes d3) t.status.curLanes = true) (eq : eqOk (sixBytes d6) t.status.curLanes = true)
    (asked : t.sessionParam.fecEn = false) :
    Triple boundary (fun b => Exactly t p st h
        (ackWrite d1 :: ackWrite d2 :: ackRead 6 d3 :: ackWrite d4 :: ackWrite d5 :: ackRead 6 d6 :: ackWrite d7 :: as) b ∧ PhyOk b)
      rungCode N B (SessionOk 7 (sessionTrain t d6) h) := by
  refine (Triple.seq (.call (crCode_converges phase cr)) <| returnedOk_exactly <| .seq (.call (eqCode_converges rfl eq)) <|
    returnedOk_exactly (completedOk_exactly rfl asked)).weaken (fun _ => id) (fun _ => id) (fun _ => id) ?_
  rintro b ⟨ret, -, ⟨train, phy, -⟩, hist, -⟩
  rw [drivenAll_eq, drivenAll_eq] at phy
  rw [List.filter_true, List.append_assoc, List.append_assoc, List.append_assoc] at hist
  refine ⟨ret, train, congrArg PhyRegs.lanes phy, congrArg PhyRegs.rate phy, congrArg PhyRegs.xmitMask phy,
    congrArg PhyRegs.pattern phy, congrArg PhyRegs.video phy, _, hist, ?_⟩
  have entry : (crEntryEvents t.status).countP Event.isIssue = 0 := rfl
  simp only [List.countP_append, entry, iterationEvents_issues, teardownEvents_issues]

/-- The shadows after an initialization that succeeded (R194, R199). -/
def initializedPhy (p : PhyRegs) (q : LinkPhyParam) : PhyRegs :=
  { p with framing := .known (sessionFraming q), xmitMask := .known (laneMask q.initLanes) }

/-- Initialization without FEC and with every access wholly acknowledged leaves the PHY ready. -/
theorem initCode_ready {cap d1 d2 d3 : Buf} (phase : t.phase ∈ startPhases) (asked : st.defaultParam.fecEn = false) :
    Triple boundary (fun b => Exactly t p st h (ackRead 16 cap :: ackWrite d2 :: ackWrite d3 :: as) b ∧ PhyOk b) initCode N B fun b =>
      Converged (initialized t st.defaultParam cap) (initializedPhy p st.defaultParam) { st with configLocked := true }
        (h ++ initEvents st.defaultParam cap d1 d2 d3) as b ∧ PhyOk b := by
  have triple := undisturbed_carries.triple boundary_undisturbed (fun _ _ keeps => keeps) rfl
    (initCode_exactly (t := t) (p := p) (st := st) (h := h) (as := as) (cap := cap) (d1 := d1) (d2 := d2) (d3 := d3)
      (N := fun _ => False) (B := fun _ => False) phase)
  rw [asked] at triple
  exact triple.weaken (fun _ hb => ⟨hb.1, hb.1.quiet, hb.2⟩) (fun _ hb => hb.1.elim) (fun _ hb => hb.1.elim)
    fun _ hb => ⟨hb.1, hb.2.2⟩

/-- A session in which everything is acknowledged and both phases converge at once, without FEC (R191). -/
theorem startCode_converges {cap d1 d2 d3 d4 d5 d6 d7 d8 d9 : Buf} (phase : t.phase ∈ startPhases)
    (cr : crOk (sixBytes d5) st.defaultParam.initLanes = true) (eq : eqOk (sixBytes d8) st.defaultParam.initLanes = true)
    (asked : st.defaultParam.fecEn = false) :
    Triple boundary (fun b => Exactly t p st h
        (ackRead 16 cap :: ackWrite d1 :: ackWrite d2 :: ackWrite d3 :: ackWrite d4 :: ackRead 6 d5 :: ackWrite d6 :: ackWrite d7 ::
          ackRead 6 d8 :: ackWrite d9 :: as) b ∧ PhyOk b)
      startCode N B (SessionOk 10 (sessionTrain (initialized t st.defaultParam cap) d8) h) := by
  let t' := initialized t st.defaultParam cap
  let p' := initializedPhy p st.defaultParam
  let h' := h ++ initEvents st.defaultParam cap d1 d1 d2
  have rung {N B : Block → Prop} : Triple boundary (fun b => Exactly t' p' { st with configLocked := true } h'
      (ackWrite d3 :: ackWrite d4 :: ackRead 6 d5 :: ackWrite d6 :: ackWrite d7 :: ackRead 6 d8 :: ackWrite d9 :: as) b ∧ PhyOk b)
      rungCode N B (SessionOk 10 (sessionTrain t' d8) h) :=
    (rungCode_converges (List.mem_cons_self ..) cr eq asked).weaken (fun _ => id) (fun _ => id) (fun _ => id)
      fun _ ok => ok.after (initEvents_issues asked)
  exact phaseIn_triple (fun b hb => by rwa [hb.1.regs.1]) <| .seq (.call (initCode_ready phase asked)) <|
    .seq (.condTrue (fun b hb => by rw [evalTest, hb.1.1]; rfl) (Triple.skip.pre fun _ hb => ⟨hb.1.2, hb.2⟩)) <|
    .seq (M := fun _ => False) (.loopStep (M := fun _ => False) rung (.absurd fun _ => id)) (.absurd fun _ => id)

end

/-- Settles O37: the session from the host's state, with its end and its history read off. -/
theorem startCompletes : Obligations.StartCompletes := by
  intro s cap w1 w2 w3 w4 r1 w5 w6 r2 w7 rest p phase idle quiet phyOk asked answers done
  have start := exactly_start (.cmdStart 0x02) quiet
  rw [answers] at start
  have cr : crOk (sixBytes r1) p.initLanes = true := (crOk_iff _ _).2 fun i hi => (done i hi).1
  have eq : eqOk (sixBytes r2) p.initLanes = true := (eqOk_iff _ _).2 fun i hi => (done i hi).2
  obtain ⟨c, ran, ok, -, -⟩ :=
    exec_of_triple (i := .trainStart) (startCode_converges (as := rest) phase cr eq asked) idle ⟨start, phyOk⟩
  obtain ⟨l, hist, count⟩ := ok.hist
  refine ⟨endCommand c, .cmdStart 0x02 :: l ++ [.cmdEnd .ok], ran, endCommand_resStatus_of ok.ret, ok.successEnd,
    congrArg TrainRegs.status ok.train, ok.lanes, ok.rate, ok.xmitMask, congrArg TrainRegs.lstat ok.train, ?_, ?_⟩
  · rw [endCommand_hist, ok.ret, hist]; simp
  · simp [Event.isIssue, count]

end Sys2Proof.Machine
end

section
/-! PROOFS. O44 and O47: how `SINK.IRQ` ends, a vector read that fails, and a training test (spec/43_sink_irq.md R240 to R248). -/

namespace Sys2Proof.Machine

open Sys2Proof

/-! ### The status, whatever the agents do (R240, R247) -/

/-- A status that the parser may end with (R247). -/
def Status.ofParser (st : Status) : Prop := st = .ok ∨ st = .protocolError

theorem Status.ofParser.code {st : Status} (h : st.ofParser) : st.code = 0 ∨ st.code = 3 := by
  obtain rfl | rfl := h
  · exact .inl rfl
  · exact .inr rfl

/-- The status that the parser is computing is one of them. -/
def StatusKept (b : Block) : Prop := b.loc.st.ofParser

theorem StatusKept.update {u : Update} (hu : u.ofParser = true) {b : Block} (hb : StatusKept b) : StatusKept (runUpdate u b) := by
  cases u with
  | irqBegin => exact .inl rfl
  | irqError => exact .inr rfl
  | irqTestTraining => exact hb
  | irqTestPhy => exact hb
  | irqCp => exact hb
  | _ => cases hu

section
variable {N B R : Block → Prop}

theorem StatusKept.act {u : Update} (hu : u.ofParser = true) : Triple boundary StatusKept (.act (.upd u)) StatusKept B R :=
  .act boundary_gentle (Update.plain_ofParser hu) fun b hb => update hu (by rwa [StatusKept, boundary_loc])

theorem StatusKept.access {a : Access} : Triple boundary StatusKept (.access a) StatusKept B R :=
  .access boundary_gentle fun _ _ hb keeps => by rwa [StatusKept, keeps.st]

theorem StatusKept.accessOr {a : Access} {onFail : Code} (fail : Triple boundary StatusKept onFail StatusKept B R) :
    Triple boundary StatusKept (accessOr a onFail) StatusKept B R :=
  .seq access (.cond (Triple.skip.pre fun _ => And.left) (fail.pre fun _ => And.left))

/-- The parser's parts keep it, returns of the test request among them. -/
theorem StatusKept.atoms {c : Code} (parts : c.Atoms fun c => parserAtom c = true) :
    Triple boundary StatusKept c StatusKept B StatusKept := by
  refine Triple.atoms (A := fun c => parserAtom c = true) (fun B c hc => ?_) c B parts
  cases c with
  | skip => exact .skip
  | ret st => exact .ret fun _ => id
  | retSt => exact .retSt fun _ => id
  | first x =>
    cases x with
    | upd u => exact .first (Update.plain_ofParser hc) fun _ => update hc
    | _ => cases hc
  | act x =>
    cases x with
    | upd u => exact act hc
    | _ => cases hc
  | access x => exact access
  | _ => cases hc

/-- The parser returns the status it computed, or `ProtocolError` (R240, R241, R247). -/
theorem parserCode_status : Triple boundary (fun _ => True) parserCode N B fun b => b.loc.ret.ofParser := by
  obtain ⟨-, -, ⟨tests, -⟩, -⟩ := parserCode_atoms
  refine .seq (M := StatusKept) (.act boundary_gentle rfl fun _ _ => .inl rfl) <|
    .seq (M := StatusKept) (StatusKept.accessOr (.ret fun _ _ => .inr rfl)) <|
    .seq (M := StatusKept) (.cond ?_ (Triple.skip.pre fun _ => And.left)) <|
    .seq (M := StatusKept) (.cond ((StatusKept.act rfl).pre fun _ => And.left) (Triple.skip.pre fun _ => And.left)) <|
    .seq (StatusKept.accessOr (.first rfl fun _ => StatusKept.update rfl)) <| .retSt fun _ => id
  exact (Triple.call (StatusKept.atoms (c := testRequestCode) tests)).pre fun _ => And.left

/-! ### A vector read that fails (R241) -/

/-- Nothing is read but the vector, and the record stays empty (R241, R248). -/
theorem parserCode_vectorFails {h : List Event} {f : AuxAnswer} {rest : List AuxAnswer} {r : ParserRegs} (defers : ¬ Defers f)
    (fails : ¬ WholeAck .irqVector f) :
    Triple boundary (Parsing h (f :: rest) r) parserCode N B fun b =>
      Parsing (h ++ [readIssue .irqVector]) rest { r with sirq := zeroSirq, st := .ok } b ∧ b.loc.ret = .protocolError :=
  .seq Script.begins <|
    .seq (M := fun _ => False)
      (Parsing.orFailed defers (fun b _ => issueEvent_read rfl b) fails (.ret fun _ hb => ⟨hb.returning _, rfl⟩)) <|
    .absurd fun _ => id

end

/-- The issues that a command added to the history are those of its code. -/
theorem Steady.issues_endCommand {opc : Byte} {b c : Block} {made : List Event} (steady : Steady (log (.cmdStart opc) b) c)
    (issues : c.hist.filter Event.isIssue = b.hist.filter Event.isIssue ++ made) :
    ∃ d, (endCommand c).hist = b.hist ++ d ∧ d.filter Event.isIssue = made := by
  obtain ⟨d, hist⟩ := steady.hist
  refine ⟨.cmdStart opc :: d ++ [.cmdEnd c.loc.ret], by simp [← hist], ?_⟩
  have all : (b.hist.filter Event.isIssue) ++ d.filter Event.isIssue = b.hist.filter Event.isIssue ++ made := by
    simpa [← hist, Event.isIssue] using issues
  simpa [Event.isIssue] using List.append_cancel_left all

/-- Settles O44: the parser's status whatever the agents do, and its run after a vector read that fails. -/
theorem sinkIrqOutcome : Obligations.SinkIrqOutcome := by
  unfold Obligations.SinkIrqOutcome
  refine ⟨fun s idle => ?_, fun s f rest idle quiet answers defers fails => ?_⟩
  · obtain ⟨c, eq, status, -, -⟩ := exec_of_triple (i := .sinkIrq) parserCode_status idle trivial
    exact ⟨_, eq, status.code⟩
  · have start : Parsing (s.blk.hist.filter Event.isIssue) (f :: rest) s.blk.parser (log (.cmdStart (opcodeOf .sinkIrq)) s.blk) :=
      ⟨quiet, by simp [Event.isIssue], answers, rfl⟩
    obtain ⟨c, eq, ⟨⟨-, issues, answers', regs⟩, ret⟩, -, steady⟩ :=
      exec_of_triple (i := .sinkIrq) (parserCode_vectorFails defers fails) idle start
    obtain ⟨d, hist, made⟩ := steady.issues_endCommand issues
    exact ⟨endCommand c, d, eq, by rw [endCommand_resStatus, ret]; rfl, congrArg ParserRegs.sirq regs, answers', hist, made⟩

/-! ### A training test (R243) -/

/-- The bytes read in a training test. -/
def trainingTestBytes (d1 d2 d3 d4 : Buf) : Access → Buf
  | .testRequest => d2
  | .testLinkRate => d3
  | .testLaneCount => d4
  | _ => d1

/-- Settles O47: the run with no read that fails, of the reads that a training test asks for. -/
theorem sinkIrqTrainingTest : Obligations.SinkIrqTrainingTest := by
  unfold Obligations.SinkIrqTrainingTest
  intro s d1 d2 d3 d4 d5 rest idle quiet answers asked training phy
  have reads : parserReads d1[0] d2[0] d1[0] = [.testRequest, .testLinkRate, .testLaneCount] := by
    rw [parserReads, if_pos asked, if_pos training, if_neg (by rw [phy]; decide)]
    rfl
  have whole : WholeAck .irqClear (ackWrite d5) := ⟨_, _, rfl, rfl, rfl, rfl, .inl rfl⟩
  have run := sinkIrqParses s (trainingTestBytes d1 d2 d3 d4) 3 .timedOut (ackWrite d5) rest idle quiet
  simp only [trainingTestBytes, reads] at run
  obtain ⟨b, d, eq, -, -, ok, record, hist, issues⟩ := run (Nat.le_refl _) answers nofun whole.not_defers
  refine ⟨b, d, eq, ok.2 ⟨rfl, whole⟩, ?_, hist, issues⟩
  simp [record, parserRecord, trainingTestBytes, zeroSirq, Vector.ext_iff]

end Sys2Proof.Machine
end

section
/-! PROOFS. O45: the sink service at a boundary (spec/43_sink_irq.md R240 to R247; spec/60_exceptions.md R262, R263). -/

namespace Sys2Proof.Machine

open Sys2Proof

/-! ### Inside a service (R262, R266) -/

/-- While a service runs no other is taken: a boundary is only the source's choice (R266). -/
theorem boundary_eq_quietBoundary {b : Block} (running : b.svc.active = true) : boundary b = quietBoundary b :=
  serve_closed (by simp [serviceAdmitted, drawBoundary, running])

theorem active_carries : Carries (fun _ => true) fun a b => b.svc.active = a.svc.active where
  refl _ := rfl
  trans _ _ _ h k := k.trans h
  act a _ b := (runAct_source a b).active
  mark _ _ := rfl
  returning _ _ := rfl
  raise _ _ := rfl

/-- A service goes on running while its code does. -/
theorem runCode_running (c : Code) {b : Block} (running : b.svc.active = true) :
    (runCode quietBoundary c b).2.svc.active = true :=
  (active_carries.runCode (hook := quietBoundary) (fun _ => rfl) c c.only_all b).trans running

/-- What follows a piece of code, in two ways that agree where it ends. -/
theorem chain_congr {r : Sig × Block} {f g : Block → Sig × Block} (h : f r.2 = g r.2) : chain r f = chain r g := by
  obtain ⟨sig, b⟩ := r
  cases sig with
  | norm => exact h
  | _ => rfl

/-- The code does the same with either boundary while a service runs. -/
def SameInService (c : Code) : Prop := ∀ b, b.svc.active = true → runCode quietBoundary c b = runCode boundary c b

theorem SameInService.act (a : Act) : SameInService (.act a) := fun b running => by
  simp only [runCode, boundary_eq_quietBoundary running]

theorem SameInService.seq {c d : Code} (hc : SameInService c) (hd : SameInService d) : SameInService (.seq c d) :=
  fun b running => by
    rw [runCode_seq, runCode_seq, ← hc b running]
    exact chain_congr (hd _ (runCode_running c running))

theorem SameInService.access (a : Access) : SameInService (.access a) := by
  have once : SameInService (onceCode a) := (SameInService.act _).seq (.act _)
  have retry (n : Nat) : ∀ b, b.svc.active = true → retries quietBoundary a n b = retries boundary a n b := by
    induction n with
    | zero => exact fun _ _ => rfl
    | succ n ih =>
      intro b running
      simp only [retries, accessRetry_succ, ← once b running]
      rw [chain_congr (ih _ (runCode_running _ running))]
  intro b running
  show runAccess _ a b = runAccess _ a b
  rw [runAccess_chain, runAccess_chain, ← once b running]
  exact chain_congr (retry _ _ (runCode_running _ running))

theorem SameInService.loop {c : Code} (hc : SameInService c) (n : Nat) : SameInService (.loop n c) := by
  show ∀ b, _ → iterate _ n b = iterate _ n b
  induction n with
  | zero => exact fun _ _ => rfl
  | succ n ih =>
    intro b running
    have running' := runCode_running c running
    simp only [iterate, ← hc b running]
    rcases hr : runCode quietBoundary c b with ⟨sig, b'⟩
    rw [hr] at running'
    cases sig with
    | norm => exact ih b' running'
    | _ => rfl

/-- Inside a service the boundary of a command takes no service, so that what is known of code run in a command is known there. -/
theorem runCode_sameInService (c : Code) : SameInService c := by
  induction c with
  | act a => exact .act a
  | access a => exact .access a
  | seq c d hc hd => exact hc.seq hd
  | loop n c hc => exact hc.loop n
  | cond t c d hc hd => exact fun b running => by simp only [runCode, hc b running, hd b running]
  | call c hc => exact fun b running => by simp only [runCode, hc b running]
  | _ => exact fun _ _ => rfl

/-- What the parser's triple says of a service that is admitted. -/
theorem runService_of_triple {P R : Block → Prop} {b : Block}
    (triple : Triple boundary P parserCode R (fun _ => False) R) (admitted : serviceAdmitted b = true) (start : P (beginService b)) :
    ∃ c, runService b = endService b.loc c ∧ R c := by
  obtain ⟨-, -, idle⟩ := (serviceAdmitted_iff b).1 admitted
  obtain ⟨-, -, ends⟩ := triple (beginService b) idle start
  refine ⟨_, runService_eq idle, ?_⟩
  rw [runCode_sameInService parserCode _ rfl]
  revert ends
  rcases runCode boundary parserCode (beginService b) with ⟨sig, c⟩
  cases sig with
  | norm => exact id
  | ret => exact id
  | _ => exact False.elim

/-! ### The parser with its whole history -/

/-- The parser's registers at its start: the record emptied, the status `OK` (R240). -/
def ParserRegs.begun (r : ParserRegs) : ParserRegs := { r with sirq := zeroSirq, st := .ok }

/-- Inside the parser, where no service comes between: as in `Parsing`, with the whole history. -/
structure Serving (h : List Event) (as : List AuxAnswer) (r : ParserRegs) (b : Block) : Prop where
  parsing : Parsing (h.filter Event.isIssue) as r b
  hist : b.hist = h

section
variable {h : List Event} {x : AuxAnswer} {as : List AuxAnswer} {r : ParserRegs} {a : Access} {onFail : Code}
  {N B R : Block → Prop} {b : Block}

theorem Serving.returning (hb : Serving h as r b) (st : Status) : Serving h as r { b with loc.ret := st } :=
  ⟨hb.parsing.returning st, hb.hist⟩

/-- The start of the parser (R240). -/
theorem Serving.begun (hb : Serving h as r b) :
    Serving (h ++ [.sinkIrq]) as r.begun (runAct (.upd .irqBegin) b).2 := by
  obtain ⟨⟨quiet, issues, answers, regs⟩, hist⟩ := hb
  exact ⟨⟨quiet, by simpa [runAct, runUpdate, Event.isIssue] using issues, answers, by rw [← regs]; rfl⟩,
    by rw [← hist]; rfl⟩

/-- A wholly acknowledged access leaves its issue and its answer in the history, and no log (R135). -/
theorem Serving.acknowledged (hb : Serving h (x :: as) r b) (idle : b.aux.fsm = .idle) (whole : WholeAck a x) :
    Serving (h ++ [a.issueEvent b, answerEvent x]) as
      (a.parsed ((answered a x as b).ibuf.put (a.result x).data) r) (accessResult a (a.result x) (answered a x as b)) := by
  have hist : (accessResult a (a.result x) (answered a x as b)).hist = h ++ [a.issueEvent b, answerEvent x] := by
    obtain ⟨l, eq, -, none⟩ := answered_hist a x as idle
    rw [accessResult_hist, eq, none whole, hb.hist, List.append_nil]
  obtain ⟨⟨quiet, -, answers, regs⟩, -⟩ := (hb.parsing.answered (a := a) idle).succeeded whole
  exact ⟨⟨quiet, by rw [hist], answers, regs⟩, hist⟩

/-- An access with a known answer that does not defer. -/
theorem Serving.access {Q : Block → Prop} (defers : ¬ Defers x)
    (post : ∀ b, b.aux.fsm = .idle → Serving h (x :: as) r b → Q b → N (accessResult a (a.result x) (answered a x as b))) :
    Triple boundary (fun b => Serving h (x :: as) r b ∧ Q b) (.access a) N B R := by
  intro b idle ⟨hb, hq⟩
  obtain ⟨-, idle', steady, -⟩ := runAccess_keeps boundary_gentle a b idle
  have run := runAccess_answered (a := a) idle hb.parsing.quiet hb.parsing.answers defers
  rw [run] at idle' steady
  simp only [runCode, run]
  exact ⟨idle', steady, post b idle hb hq⟩

/-- An access that is wholly acknowledged, and what the parser's registers then hold. -/
theorem Serving.orWhole {issue : Event} {r' : ParserRegs} (whole : WholeAck a x)
    (event : ∀ b, Serving h (x :: as) r b → a.issueEvent b = issue)
    (stored : ∀ buf : Buf, a.parsed (buf.put (a.result x).data) r = r') :
    Triple boundary (Serving h (x :: as) r) (accessOr a onFail) (Serving (h ++ [issue, answerEvent x]) as r') B R := by
  refine .seq (M := fun b => Serving (h ++ [issue, answerEvent x]) as r' b ∧ b.loc.ok = true) ?_ <|
    .condTrue (fun _ hb => hb.2) (Triple.skip.pre fun _ => And.left)
  refine (Serving.access (Q := fun _ => True) whole.not_defers fun b idle hb _ => ⟨?_, ?_⟩).pre fun _ hb => ⟨hb, trivial⟩
  · rw [← event b hb, ← stored (answered a x as b).ibuf]
    exact hb.acknowledged idle whole
  · rw [accessResult_ok, (succeeded_result_iff a x).2 whole]

/-- The parser's registers after a vector `v` without a test request (R240, R245). -/
def withoutTest (v : Byte) (r : ParserRegs) : ParserRegs :=
  { r with v := v, st := .ok, sirq := { zeroSirq with valid := true, raw := v, cpIrq := v.getLsbD 2 } }

/-- The parser's run without a test request: the vector is read and written back (R240, R246). -/
theorem parserCode_withoutTest {d1 d2 : Buf} (clear : d1[0].getLsbD 1 = false) :
    Triple boundary (Serving h (ackRead 1 d1 :: ackWrite d2 :: as) r) parserCode N B fun b =>
      Serving (h ++ [.sinkIrq] ++ [readIssue .irqVector, answerEvent (ackRead 1 d1)] ++
        [.auxIssue 0x80020100 false [d1[0]], answerEvent (ackWrite d2)]) as (withoutTest d1[0] r) b ∧ b.loc.ret = .ok := by
  have vector : WholeAck .irqVector (ackRead 1 d1) := wholeAck_ackRead rfl d1
  have whole : WholeAck .irqClear (ackWrite d2) := ⟨_, _, rfl, rfl, rfl, rfl, .inl rfl⟩
  have data : (Access.result .irqVector (ackRead 1 d1)).data = d1.first Access.irqVector.size.toNat := result_data rfl vector
  have bit {h as} (n : Nat) (b : Block) (hb : Serving h as (Access.irqVector.parsed d1 r.begun) b) :
      evalTest (.vectorBit n) b = d1[0].getLsbD n := congrArg (fun r : ParserRegs => r.v.getLsbD n) hb.parsing.regs
  refine .seq (.act boundary_gentle rfl fun b hb => by rw [boundary_quiet hb.parsing.quiet]; exact hb.begun) <|
    .seq (Serving.orWhole vector (fun b _ => issueEvent_read rfl b) fun buf => by rw [data, parsed_put_first]) <|
    .seq (.condFalse (fun b hb => (bit 1 b hb).trans clear) .skip) <|
    .seq (M := Serving _ (ackWrite d2 :: as) (withoutTest d1[0] r)) (.cond (.act boundary_gentle rfl ?_) (Triple.skip.pre ?_)) <|
    .seq (Serving.orWhole (issue := .auxIssue 0x80020100 false [d1[0]]) whole (fun b hb => ?_) fun _ => rfl) <|
    .retSt fun b hb => ⟨hb.returning _, congrArg ParserRegs.st hb.parsing.regs⟩
  · intro b ⟨hb, set⟩
    rw [bit 2 b hb] at set
    obtain ⟨⟨quiet, issues, answers, regs⟩, hist⟩ := hb
    rw [boundary_quiet quiet]
    refine ⟨⟨quiet, issues, answers, (congrArg (fun r => { r with sirq.cpIrq := true }) regs).trans ?_⟩, hist⟩
    rw [withoutTest, set]
    rfl
  · intro b ⟨hb, unset⟩
    rw [bit 2 b hb] at unset
    obtain ⟨⟨quiet, issues, answers, regs⟩, hist⟩ := hb
    refine ⟨⟨quiet, issues, answers, regs.trans ?_⟩, hist⟩
    rw [withoutTest, unset]
    rfl
  · exact congrArg (fun v => Event.auxIssue 0x80020100 false [v]) (congrArg ParserRegs.v hb.parsing.regs)

theorem issued_reply (idle : b.aux.fsm = .idle) : (issued a b).aux.reply = b.aux.reply := by
  rw [issued_eq idle, auxIssue_idle idle]; rfl
theorem issued_replyValid (idle : b.aux.fsm = .idle) : (issued a b).aux.replyValid = false := by
  rw [issued_eq idle, auxIssue_idle idle]; rfl

/-- An access whose wait expires leaves its issue, the timeout, and the log with the reply register as it was (R129, R135). -/
theorem answered_timedOut_hist (idle : b.aux.fsm = .idle) :
    (answered a .timedOut as b).hist = b.hist ++ [a.issueEvent b, .auxTimeout] ++
      [.log (.nonAck (answered a .timedOut as b).aux.req b.aux.reply false)] := by
  have logs : logsNonAck (a.result .timedOut) = true := rfl
  simp [answered, logXfer, logs, takeAnswer, issued_hist idle, issued_reply idle, issued_replyValid idle]

/-- The parser after a vector read that timed out, with the reply register as it was (R129, R135, R241). -/
structure VectorTimedOut (h : List Event) (as : List AuxAnswer) (r : ParserRegs) (reply : ReplyStatus) (b : Block) : Prop where
  parsing : Parsing (h.filter Event.isIssue ++ [readIssue .irqVector]) as r.begun b
  hist : b.hist = h ++ [.sinkIrq] ++ [readIssue .irqVector, .auxTimeout] ++ [.log (.nonAck b.aux.req reply false)]

/-- The parser's run after a vector read that times out (R241, R247). -/
theorem parserCode_timedOut {reply : ReplyStatus} :
    Triple boundary (fun b => Serving h (.timedOut :: as) r b ∧ b.aux.reply = reply) parserCode N B fun b =>
      VectorTimedOut h as r reply b ∧ b.loc.ret = .protocolError := by
  refine .seq (M := fun b => Serving (h ++ [.sinkIrq]) (.timedOut :: as) r.begun b ∧ b.aux.reply = reply)
    (.act boundary_gentle rfl fun b ⟨hb, eq⟩ => by rw [boundary_quiet hb.parsing.quiet]; exact ⟨hb.begun, eq⟩) <|
    .seq (M := fun _ => False) (.seq (M := fun c => VectorTimedOut h as r reply c ∧ c.loc.ok = false) ?_ ?_) (.absurd fun _ => id)
  · refine Serving.access (by rintro ⟨_, _, ⟨⟩, -⟩) fun b idle hb eq => ?_
    have fails : ¬ WholeAck .irqVector .timedOut := by rintro ⟨_, _, ⟨⟩, -⟩
    have issues : (h ++ [Event.sinkIrq]).filter Event.isIssue = h.filter Event.isIssue := by simp [Event.isIssue]
    obtain ⟨parsing, no⟩ := (hb.parsing.answered (a := .irqVector) idle).failed fails
    rw [issueEvent_read rfl, issues] at parsing
    refine ⟨⟨parsing, ?_⟩, no⟩
    rw [accessResult_hist, accessResult_aux, answered_timedOut_hist idle, hb.hist, eq, issueEvent_read rfl]
  · exact .condFalse (fun _ hc => hc.2) (.ret fun c ⟨⟨parsing, hist⟩, _⟩ => ⟨⟨parsing.returning _, hist⟩, rfl⟩)

end

/-! ### The boundary (R262) -/

theorem endService_sirq (saved : Locals) (b : Block) : (endService saved b).sirq = b.sirq := by unfold endService; split <;> rfl
theorem endService_svc (saved : Locals) (b : Block) :
    (endService saved b).svc = { pending := b.svc.pending, active := false } := by unfold endService; split <;> rfl

/-- A service that ended `OK` leaves nothing more in the history; another is logged (R247). -/
theorem endService_hist_eq (saved : Locals) (b : Block) : (endService saved b).hist =
    b.hist ++ if b.loc.ret = .ok then [] else [.log (.sinkIrqError b.sirq.raw)] := by
  unfold endService; split <;> simp

/-- After the last choice of the source has been drawn, with a service pending. -/
def lastDrawn (b : Block) : Block := { b with env.irq := [], svc.pending := true }

/-- Where the service then starts: the request is taken (R262). -/
def serviceStart (b : Block) : Block := beginService (lastDrawn b)

theorem serviceStart_serving {b : Block} (quiet : b.env.irqQuiet = true) : Serving b.hist b.env.aux b.parser (serviceStart b) :=
  ⟨⟨⟨rfl, rfl, quiet⟩, rfl, rfl, rfl⟩, rfl⟩

/-- A boundary at which a service is requested or pending, and which admits it: the service runs, and no other follows, since the
request is taken. -/
theorem boundary_service {b : Block} {x : Boundary} {n : Nat} {P R : Block → Prop} (idle : b.aux.fsm = .idle)
    (resting : b.svc.active = false) (irq : b.env.irq = [x]) (asked : b.svc.pending = true ∨ x.request = true)
    (times : x.serve = .times (n + 1)) (triple : Triple boundary P parserCode R (fun _ => False) R)
    (taken : ∀ c, R c → c.svc.pending = false) (start : P (serviceStart b)) :
    ∃ c, boundary b = endService b.loc c ∧ R c := by
  have draw : drawBoundary b = (.times (n + 1), lastDrawn b) := by
    have pending : (b.svc.pending || x.request) = true := by simpa using asked
    simp [drawBoundary, Env.nextBoundary, irq, times, pending, lastDrawn]
  have admitted : serviceAdmitted (lastDrawn b) = true := (serviceAdmitted_iff _).2 ⟨rfl, resting, idle⟩
  obtain ⟨c, ran, hc⟩ := runService_of_triple triple admitted start
  refine ⟨c, ?_, hc⟩
  simp only [boundary, draw, Serve.count, serve, admitted, if_true, ran]
  exact serve_closed (by simp [serviceAdmitted, endService_svc, taken c hc])

/-- Settles O45: the parser's run at a boundary that admits it, and the endless source's first service. -/
theorem asyncServiceRuns : Obligations.AsyncServiceRuns := by
  unfold Obligations.AsyncServiceRuns
  refine ⟨fun b x n idle resting irq quiet asked times => ⟨fun d1 d2 rest answers unset => ?_, fun rest answers => ?_⟩,
    fun b k idle resting => ?_⟩
  · have start := serviceStart_serving quiet
    rw [answers] at start
    obtain ⟨c, ran, ⟨⟨⟨pending, -⟩, -, answers', regs⟩, hist⟩, ok⟩ := boundary_service idle resting irq asked times
      (parserCode_withoutTest unset) (fun _ hc => hc.1.parsing.quiet.1) start
    have record : c.sirq = _ := congrArg ParserRegs.sirq regs
    rw [ran, endService_sirq, endService_svc, endService_env, endService_hist_eq, ok, hist, pending]
    exact ⟨record, rfl, answers', by simp [readIssue, Access.addr, Access.size]⟩
  · have start := serviceStart_serving quiet
    rw [answers] at start
    obtain ⟨c, ran, ⟨⟨⟨pending, -⟩, -, answers', regs⟩, hist⟩, failed⟩ := boundary_service idle resting irq asked times
      (parserCode_timedOut (reply := b.aux.reply)) (fun _ hc => hc.1.parsing.quiet.1) ⟨start, rfl⟩
    have empty : c.sirq = zeroSirq := congrArg ParserRegs.sirq regs
    rw [ran, endService_sirq, endService_svc, endService_env, endService_hist_eq, endService_aux, failed, hist, empty, pending]
    exact ⟨rfl, rfl, answers', by simp [readIssue, Access.addr, Access.size, zeroSirq]⟩
  · have admitted : serviceAdmitted (requestService b) = true := (serviceAdmitted_iff _).2 ⟨rfl, resting, idle⟩
    simp only [microStep, admitted, if_true]
    rfl

end Sys2Proof.Machine
end

section
/-! PROOFS. O50: a boundary that admits no service (spec/60_exceptions.md R262, R264, R266). -/

namespace Sys2Proof.Machine

open Sys2Proof

/-- The two ways in which no service is admitted, whatever is pending: a transaction in flight (R262), and a service that already
runs (R266). -/
theorem serviceAdmitted_eq_false {b : Block} (busy : b.aux.fsm = .wait ∨ b.svc.active = true) : serviceAdmitted b = false := by
  rcases busy with inFlight | running
  · simp [serviceAdmitted, inFlight]
  · simp [serviceAdmitted, running]

/-- A boundary that may take no service is only the source's choice: the choice touches neither the engine nor the service bit, so
it admits no service either. -/
theorem boundary_eq_quietBoundary_of_busy {b : Block} (busy : b.aux.fsm = .wait ∨ b.svc.active = true) :
    boundary b = quietBoundary b :=
  have busyAfter : (quietBoundary b).aux.fsm = .wait ∨ (quietBoundary b).svc.active = true := by simpa using busy
  serve_closed (serviceAdmitted_eq_false busyAfter)

/-- The source's choice notes its request and uses up that choice; all else is as it was (R262, R264). -/
theorem quietBoundary_eq (b : Block) : quietBoundary b = { b with
    env := b.env.nextBoundary.2, svc := { b.svc with pending := b.svc.pending || b.env.nextBoundary.1.request } } := rfl

/-- Settles O50: such a boundary is the source's choice alone, and the environment left is the one after that choice. -/
theorem noServiceInFlight : Obligations.NoServiceInFlight := by
  unfold Obligations.NoServiceInFlight
  intro b busy
  exact ⟨b.env.nextBoundary.2, (boundary_eq_quietBoundary_of_busy busy).trans (quietBoundary_eq b)⟩

end Sys2Proof.Machine
end

section
/-! PROOFS. O51: the reset values (spec/70_reset_and_hazards.md R280). -/

namespace Sys2Proof.Machine

open Sys2Proof

/-- The host has written no byte of `HBUF` (R255). -/
@[simp] theorem resetPort_hbufWritten (k : Fin 16) : resetPort.hbufWritten[k] = false := Vector.getElem_replicate k.isLt

@[simp] theorem resetPhy_drive (i : Lane) : resetPhy.drive[i] = .unknown := Vector.getElem_replicate i.isLt

@[simp] theorem resetPhy_power (i : Lane) : resetPhy.power[i] = .unknown := Vector.getElem_replicate i.isLt

/-- Settles O51: the three per-byte and per-lane registers hold one value throughout, and every other register is a field that the
reset state gives. -/
theorem resetValues : Obligations.ResetValues := by
  unfold Obligations.ResetValues
  exact ⟨rfl, rfl, rfl, rfl, resetPort_hbufWritten, rfl, rfl, rfl, rfl, rfl, rfl, rfl, rfl, rfl,
    fun i => ⟨resetPhy_drive i, resetPhy_power i⟩, rfl, rfl, rfl, rfl, rfl, rfl, rfl, rfl, rfl, rfl⟩

end Sys2Proof.Machine
end
